-- ==== Sys2Proof/Word.lean ====
section
/-! DEFINITION. The word types of the encoder: packed pixels and operand ports of 32 bits (spec 00_scope.md R5: PIXW, OPW),
bytes of the wire word (30_encoding.md R48), opaque pin identifiers (10_state.md R16). -/

namespace Sys2Proof

/-- One byte on the wire (R48, R83). -/
abbrev Byte := BitVec 8

/-- A packed pixel value, format PIX: 32 bits (R46). -/
abbrev Pixel := BitVec 32

/-- What one operand port `cmd_a0 .. cmd_a4` carries: OPW = 32 bits (R55). -/
abbrev PortWord := BitVec 32

/-- An opaque pin identifier as presented on an operand port (R16, R57): stored and compared, never computed with. -/
abbrev Pin := BitVec 32

end Sys2Proof
end

