-- ==== Sys2Proof/Config.lean ====
section
/-! DEFINITION. What an instance of the encoder fixes, and the free values. The wire-format literals (latch pulses, preamble
byte, marker, field positions, channel and brightness limits: 00_scope.md R5) are the named constants of Machine/Format.lean. -/

namespace Sys2Proof.Config

/-- MAXN (R5, R10, D5): OPEN in the spec, which asks only `MAXN <= 2^(OPW-1) - 1`.
DESIGN CHOICE (log entry 5), safe: the largest value allowed, so that the model has every instance any MAXN allows. -/
def maxLights : Nat := 2147483647

/-- The `numberOfLights` of the instance `State.reset`: that of R101's example `new(3)`.
DESIGN CHOICE (log entry 4), unsafe: statements about every instance are made about `State.new`. -/
def resetLights : Nat := 3

/-- The power-enable pin of the instance `State.reset` (R16, R129, D6: fixed per instance, outside INIT's operands).
DESIGN CHOICE (log entry 6), unsafe: no statement rests on the number, each holds for every value of the field. -/
def resetPowerPin : Pin := 0xFFFFFFFF#32

/-- FREE VALUE (log entry 14): what `rsp_index` carries with the k-th response where R58 calls it "not meaningful". -/
opaque rspIndexNotMeaningful : Nat → BitVec 32

/-- FREE VALUE (log entry 14): which of the codes 0 to 4 `rsp_bound` carries with the k-th response where R58 calls it "not
meaningful". Codes 5 to 7 are never produced (R59). -/
opaque rspBoundNotMeaningful : Nat → Fin 5

end Sys2Proof.Config
end

