-- ==== Sys2Proof/Syntax.lean ====
section
/-! DEFINITION. The instructions (one constructor per row of spec/opcode_table.json: four commands, fourteen
micro-operations) and the formats they are written in: line events (R8), the command port CMD (R55), the response RSP
(R58), the line-driver request (R128) and the text form of a program (R61). -/

namespace Sys2Proof

/-- The three Lines the encoder drives (R8; 90_conflicts.md C8). -/
inductive Line where
  | pwr
  | data
  | clk
  deriving DecidableEq, Repr

/-- A line event: one call of `setState(level)` on one line (R8); `true` = 1 = high = on. -/
structure LineEvent where
  line : Line
  level : Bool
  deriving DecidableEq, Repr

/-- The four fields of a pixel, each of the width of its field in PIX (R46): the operands of `pack` after `validate`
(R69) and the result of `unpack` (R70). -/
structure Channels where
  red : BitVec 8
  green : BitVec 8
  blue : BitVec 8
  brightness : BitVec 5
  deriving DecidableEq, Repr

/-- Which bound of `validate` failed (R68, R117). -/
inductive Bound where
  | index
  | red
  | green
  | blue
  | brightness
  deriving DecidableEq, Repr

/-- The response of a command (R58): normal return, or one of the two error kinds (R115). -/
inductive Response where
  | ok
  | invalidArgument (index : Int) (bound : Bound)
  | preconditionViolation
  deriving DecidableEq, Repr

/-- The instructions. The operands of the commands and of VALIDATE and BUF_SET are mathematical integers (D4), those of
`pack` the fields it is defined on (R69; log entry 26), pins opaque (R16). -/
inductive Instr where
  /-- INIT, `init(dataPin, clockPin)` (R102, R103). -/
  | init (dataPin clockPin : Pin)
  /-- SETLIGHT, `setLight(index, red, green, blue, brightness)` (R104). -/
  | setlight (index red green blue brightness : Int)
  /-- RENDER, `render()`, also `show()` (R105). -/
  | render
  /-- RESETALL, `resetAllLights()` (R106). -/
  | resetall
  /-- BUF_SET, `set(index, packedValue)` (R65). -/
  | bufSet (index : Int) (packedValue : Pixel)
  /-- BUF_ALL, `all()` (R66). -/
  | bufAll
  /-- BUF_RESETALL, `resetAll()` (R67). -/
  | bufResetall
  /-- VALIDATE (R68). -/
  | validate (lightIndex red green blue brightness : Int)
  /-- PACK (R69). -/
  | pack (red green blue : BitVec 8) (brightness : BitVec 5)
  /-- UNPACK (R70). -/
  | unpack (packedValue : Pixel)
  /-- ENCODE (R72). -/
  | encode (packedValue : Pixel)
  /-- EMIT, `setState(level)` on one line (R80). -/
  | emit (line : Line) (level : Bool)
  /-- CLOCKPULSE (R82). -/
  | clockpulse
  /-- WRITEBYTE (R83). -/
  | writebyte (b : Byte)
  /-- PREAMBLE (R85). -/
  | preamble
  /-- DATA, four wire bytes per pixel of the snapshot `p` (R86). -/
  | data (p : List Pixel)
  /-- LATCH (R87). -/
  | latch
  /-- RENDER_MICRO, `render()` as invoked inside RENDER, RESETALL and INIT (R88). -/
  | renderMicro
  deriving DecidableEq, Repr

/-- One transfer at the command port, format CMD (R55, R56). -/
structure CmdWord where
  op : BitVec 2
  a0 : PortWord
  a1 : PortWord
  a2 : PortWord
  a3 : PortWord
  a4 : PortWord
  deriving DecidableEq, Repr

/-- One response at the response port, format RSP (R58). -/
structure RspWord where
  status : BitVec 2
  index : BitVec 32
  bound : BitVec 3
  deriving DecidableEq, Repr

/-- One request at the line-driver port (R128): `ld_line`, `ld_level`. -/
structure LdWord where
  line : BitVec 2
  level : BitVec 1
  deriving DecidableEq, Repr

/-- One line of a program's text (R61): the `new` line and the API calls, operands as the integers written. `show` is the
second spelling of `render` (R62 (b)). -/
inductive SourceLine where
  | new (numberOfLights : Int)
  | init (dataPin clockPin : Int)
  | setLight (index red green blue brightness : Int)
  | render
  | show
  | resetAllLights
  deriving DecidableEq, Repr

end Sys2Proof
end

