-- ==== Sys2Proof/WellFormed.lean ====
section
/-! DEFINITION. Which instructions are well formed: every integer operand presented at the command port fits its OPW = 32
bits, signed (R55, D4), and the snapshot of DATA has the length of a buffer some instance has (R15, R66). Every other
field's type already has exactly the legal values. A value outside a LEGAL range of SETLIGHT (brightness 32) is well formed
(R57, R59): it is answered with InvalidArgument. -/

namespace Sys2Proof

/-- `x` is a value of a signed 32-bit operand port (R55). -/
def fitsPort (x : Int) : Bool :=
  decide (-2147483648 ≤ x) && decide (x ≤ 2147483647)

/-- The check, constructor by constructor. -/
def Instr.wellFormed : Instr → Bool
  | .init _ _ => true
  | .setlight i r g b br => fitsPort i && fitsPort r && fitsPort g && fitsPort b && fitsPort br
  | .render => true
  | .resetall => true
  | .bufSet i _ => fitsPort i
  | .bufAll => true
  | .bufResetall => true
  | .validate i r g b br => fitsPort i && fitsPort r && fitsPort g && fitsPort b && fitsPort br
  | .pack _ _ _ _ => true
  | .unpack _ => true
  | .encode _ => true
  | .emit _ _ => true
  | .clockpulse => true
  | .writebyte _ => true
  | .preamble => true
  | .data p => decide (1 ≤ p.length) && decide (p.length ≤ Config.maxLights)
  | .latch => true
  | .renderMicro => true

/-- Which instructions the host can issue: the four commands (R63, R108). -/
def Instr.isCommand : Instr → Bool
  | .init _ _ => true
  | .setlight _ _ _ _ _ => true
  | .render => true
  | .resetall => true
  | .bufSet _ _ => false
  | .bufAll => false
  | .bufResetall => false
  | .validate _ _ _ _ _ => false
  | .pack _ _ _ _ => false
  | .unpack _ => false
  | .encode _ => false
  | .emit _ _ => false
  | .clockpulse => false
  | .writebyte _ => false
  | .preamble => false
  | .data _ => false
  | .latch => false
  | .renderMicro => false

end Sys2Proof
end

