-- ==== Sys2Proof/Decode.lean ====
section
/-! DEFINITION. The command port's decoder and encoder (30_encoding.md R55 to R57, R63), the response encoding (R58), the
line-driver request encoding (R128), and the numbering of a command transfer's bits.

Every one of the four values of `cmd_op` is a command (R59), so the command decoder refuses nothing. The two other port
formats have codes that are never produced; their decoders reject those by name. -/

namespace Sys2Proof

/-- The command a transfer presents (R56). SETLIGHT's operands are read as signed integers, nothing masked or clamped (R57);
the ports a command does not use are ignored (R55). -/
def decode (w : CmdWord) : Instr :=
  if w.op = 0b00#2 then .init w.a0 w.a1
  else if w.op = 0b01#2 then .setlight w.a0.toInt w.a1.toInt w.a2.toInt w.a3.toInt w.a4.toInt
  else if w.op = 0b10#2 then .render
  else .resetall

/-- The transfer that presents an instruction (R56), the ignored ports 0; `none` for a micro-operation, which has no command
encoding (R63). -/
def encode : Instr → Option CmdWord
  | .init d c => some ⟨0b00, d, c, 0, 0, 0⟩
  | .setlight i r g b br =>
    some ⟨0b01, BitVec.ofInt 32 i, BitVec.ofInt 32 r, BitVec.ofInt 32 g, BitVec.ofInt 32 b, BitVec.ofInt 32 br⟩
  | .render => some ⟨0b10, 0, 0, 0, 0, 0⟩
  | .resetall => some ⟨0b11, 0, 0, 0, 0, 0⟩
  | .bufSet _ _ => none
  | .bufAll => none
  | .bufResetall => none
  | .validate _ _ _ _ _ => none
  | .pack _ _ _ _ => none
  | .unpack _ => none
  | .encode _ => none
  | .emit _ _ => none
  | .clockpulse => none
  | .writebyte _ => none
  | .preamble => none
  | .data _ => none
  | .latch => none
  | .renderMicro => none

/-- The 162 bits of a transfer numbered as one word (DESIGN CHOICE, log entry 8): `cmd_op` in bits 1:0, then `a0` in bits 33:2,
and each further operand port in the next 32 bits. -/
def CmdWord.ofBits (w : Nat) : CmdWord where
  op := BitVec.ofNat 2 w
  a0 := BitVec.ofNat 32 (w >>> 2)
  a1 := BitVec.ofNat 32 (w >>> 34)
  a2 := BitVec.ofNat 32 (w >>> 66)
  a3 := BitVec.ofNat 32 (w >>> 98)
  a4 := BitVec.ofNat 32 (w >>> 130)

/-- The number whose bits a transfer's ports carry: the inverse of `CmdWord.ofBits`. -/
def CmdWord.toBits (c : CmdWord) : Nat :=
  c.op.toNat + 2 ^ 2 * c.a0.toNat + 2 ^ 34 * c.a1.toNat + 2 ^ 66 * c.a2.toNat + 2 ^ 98 * c.a3.toNat + 2 ^ 130 * c.a4.toNat

/-- The transfer whose first `nbits` bits are those of `w`, every further bit 0. -/
def CmdWord.ofTableWord (nbits w : Nat) : CmdWord :=
  CmdWord.ofBits (w % 2 ^ nbits)

/-- The instruction the command port's decoder reads from those bits. Micro-operations have no selecting bit pattern (R63):
what is presented at the port is always one of the four commands. -/
def decodeTableWord (nbits w : Nat) : Option Instr :=
  some (decode (CmdWord.ofTableWord nbits w))

/-- The numeric code of a bound (R117). -/
def Bound.code : Bound → BitVec 3
  | .index => 0
  | .red => 1
  | .green => 2
  | .blue => 3
  | .brightness => 4

/-- What `rsp_bound` carries with the k-th response where it is not meaningful: some code of 0 to 4 (R58, R59). -/
def boundNotMeaningful (k : Nat) : BitVec 3 :=
  BitVec.ofNat 3 (Config.rspBoundNotMeaningful k).val

/-- The k-th response as the response port carries it (R58); what R58 calls not meaningful is a free value (log entry 14). -/
def encodeResponse (k : Nat) : Response → RspWord
  | .ok => ⟨0, Config.rspIndexNotMeaningful k, boundNotMeaningful k⟩
  | .invalidArgument i b => ⟨1, BitVec.ofInt 32 i, b.code⟩
  | .preconditionViolation => ⟨2, Config.rspIndexNotMeaningful k, boundNotMeaningful k⟩

/-- Codes that are never produced (R59, R128). -/
inductive PortReject where
  /-- `rsp_status` 3 (R58). Safe: the encoder never sends it. -/
  | statusNeverProduced
  /-- `rsp_bound` 5 to 7 with status 1 (R59). Safe: the encoder never sends it. -/
  | boundNeverProduced
  /-- `ld_line` 3 (R128). Safe: the encoder never sends it. -/
  | lineNeverProduced
  deriving DecidableEq, Repr

/-- The bound a code names (R117), codes 5 to 7 rejected (R59). -/
def decodeBound (b : BitVec 3) : Except PortReject Bound :=
  if b = 0#3 then .ok .index
  else if b = 1#3 then .ok .red
  else if b = 2#3 then .ok .green
  else if b = 3#3 then .ok .blue
  else if b = 4#3 then .ok .brightness
  else .error .boundNeverProduced

/-- What a host reads from the response port (R58). -/
def decodeResponse (r : RspWord) : Except PortReject Response :=
  if r.status = 0#2 then .ok .ok
  else if r.status = 1#2 then
    match decodeBound r.bound with
    | .ok b => .ok (.invalidArgument r.index.toInt b)
    | .error e => .error e
  else if r.status = 2#2 then .ok .preconditionViolation
  else .error .statusNeverProduced

/-- `ld_line` of a line (R128). -/
def Line.code : Line → BitVec 2
  | .pwr => 0
  | .data => 1
  | .clk => 2

/-- The request one `setState` call puts on the line-driver port (R128). -/
def encodeEvent (e : LineEvent) : LdWord :=
  ⟨e.line.code, BitVec.ofBool e.level⟩

/-- The call a line driver reads from a request (R128), line code 3 rejected (R59). -/
def decodeEvent (w : LdWord) : Except PortReject LineEvent :=
  if w.line = 0#2 then .ok ⟨.pwr, w.level == 1#1⟩
  else if w.line = 1#2 then .ok ⟨.data, w.level == 1#1⟩
  else if w.line = 2#2 then .ok ⟨.clk, w.level == 1#1⟩
  else .error .lineNeverProduced

end Sys2Proof
end

