-- ==== Sys2Proof/Machine/State.lean ====
section
/-! DEFINITION. The machine's state as plain data (10_state.md R10), the environment and observation the model puts beside
it, the reasons a step can stop, and the state after reset (R22). -/

namespace Sys2Proof.Machine

/-- The lifecycle state machine of R13. -/
inductive Lifecycle where
  | uninitialized
  | initialized
  deriving DecidableEq, Repr

/-- The one error kind that is fatal: the non-`None` value of `st.fault` (R14). -/
inductive FatalError where
  | preconditionViolation
  deriving DecidableEq, Repr

/-- What the host does next (R9, R101, R109). The three moves and their order are the environment's (log entry 3). -/
inductive HostMove where
  /-- The host lets one step of the engine pass (no gap between commands is required or forbidden, R156). -/
  | wait
  /-- The host creates the instance anew with this light count: `new(numberOfLights)`, which is reset (R101, R140, R141). -/
  | reset (numberOfLights : Int)
  /-- The host presents a command at the command port and holds it until it is accepted (R55, R100). -/
  | command (w : CmdWord)
  deriving DecidableEq, Repr

/-- The Line Driver as the encoder meets it: it completes every `setState` call, or hangs after completing this many more
(R93, R150; log entry 12). -/
inductive LineDriver where
  | ready
  | hangsAfter (calls : Nat)
  deriving DecidableEq, Repr

/-- What a micro-operation that returns a value returned (R66, R68, R69, R70, R72; log entry 10). -/
inductive Value where
  | nothing
  | ok
  | pixels (ps : List Pixel)
  | pixel (v : Pixel)
  | channels (c : Channels)
  | bytes (bs : List Byte)
  deriving DecidableEq, Repr

/-- The reasons a step stops the machine. -/
inductive Fault where
  /-- Raised by every line write (EMIT and all that is built from it, and the engine's Write step) when the Line Driver does
  not complete the call: the engine has no step and is stuck for good (R93, R150, U6). Safe: nothing is claimed afterwards. -/
  | lineDriverHung
  /-- Raised by a buffer access while the buffer is not allocated (R18, D24). Safe: no command path reaches it. -/
  | bufferUnallocated
  deriving DecidableEq, Repr

/-- The reasons the model gives a run no meaning. -/
inductive Refusal where
  /-- An instruction with no meaning yet, by its mnemonic. Safe. No arm of `exec` uses it any more. -/
  | notModelled (mnemonic : String)
  /-- Raised by INIT when the data pin, the clock pin and the power-enable pin are not three different pins: "a model refuses
  such a run (gives it no meaning)" (R16, R102, D7, U16). Safe. -/
  | pinsNotDistinct
  /-- Raised by a reset with a light count that is not positive (R101, U8) or above MAXN (R10): no such instance is
  constructed. Safe. -/
  | illegalLightCount
  deriving DecidableEq, Repr

/-- The state. The first ten fields are the record `st` of R10, nothing more and nothing less; the others are the model's own:
one constant of the instance, the environment, and what an observer has recorded. -/
structure State where
  /-- `st.N` (R15). -/
  N : Nat
  /-- `st.lifecycle` (R13). -/
  lifecycle : Lifecycle
  /-- `st.fault` (R14). -/
  fault : Option FatalError
  /-- `st.buf`, the Pixel Buffer (R18). -/
  buf : Option (List Pixel)
  /-- `st.bind_data` (R16). -/
  bindData : Option Pin
  /-- `st.bind_clock` (R16). -/
  bindClock : Option Pin
  /-- `st.level[PWR]` (R17). -/
  levelPwr : Option Bool
  /-- `st.level[DATA]` (R17). -/
  levelData : Option Bool
  /-- `st.level[CLK]` (R17). -/
  levelClk : Option Bool
  /-- `st.pending` (R19). -/
  pending : List LineEvent
  /-- The power-enable pin, fixed for the instance and outside `st` (R16, R129, D6; log entry 6). -/
  powerPin : Pin
  /-- What the host is still going to do, in order (log entry 3). -/
  host : List HostMove
  /-- The Line Driver (log entry 12). -/
  driver : LineDriver
  /-- Observation: every line event performed, oldest first (R8, R21 (b); log entry 13). -/
  history : List LineEvent
  /-- Observation: every response delivered, oldest first (R58, R100; log entry 13). -/
  responses : List Response
  /-- The value the last value-returning micro-operation returned (log entry 10). -/
  ret : Value
  deriving DecidableEq, Repr

/-- Reset, `new(numberOfLights)`: R22's table for the record `st`; the model's own fields at the values their log entries
name. Defined for every count; `legalLightCount` says which counts make an instance. -/
def State.new (n : Nat) (powerPin : Pin) : State where
  N := n
  lifecycle := .uninitialized
  fault := none
  buf := none
  bindData := none
  bindClock := none
  levelPwr := none
  levelData := none
  levelClk := none
  pending := []
  powerPin := powerPin
  host := []
  driver := .ready
  history := []
  responses := []
  ret := .nothing

/-- The light counts of R10: `1 <= N <= MAXN`. -/
def legalLightCount (n : Int) : Bool :=
  decide (1 ≤ n) && decide (n ≤ (Config.maxLights : Int))

/-- The machine right after reset: the instance `new(3)` of R101's example (log entries 4 and 6), with nothing placed. -/
def State.reset : State :=
  State.new Config.resetLights Config.resetPowerPin

end Sys2Proof.Machine
end

