-- ==== Sys2Proof/Machine/Format.lean ====
section
/-! DEFINITION. The wire-format constants of 00_scope.md R5 under their own names (log entry 27: their values are the spec's
and unaudited, U9), the level of a line, and the trace each transmission operation performs (41_transmission.md R80 to R88),
as functions from operands to lists of line events. -/

namespace Sys2Proof.Machine

namespace Format

/-- CHAN_MAX (R5). -/
def channelMax : Int := 255

/-- BRIGHT_MAX (R5). -/
def brightnessMax : Int := 31

/-- LATCH_PULSES (R5, R54). -/
def latchPulses : Nat := 36

/-- PREAMBLE_BYTES (R5, R85): one per LED. -/
def preambleBytes (n : Nat) : Nat := n

/-- The byte of the preamble (R85). -/
def preambleByte : Byte := 0x00#8

/-- MARKER (R5, R49). -/
def marker : BitVec 3 := 0b111#3

/-- The lowest bit of each field of PIX (R46). -/
def bluePos : Nat := 0

/-- See `bluePos`. -/
def greenPos : Nat := 8

/-- See `bluePos`. -/
def redPos : Nat := 16

/-- See `bluePos`. -/
def brightnessPos : Nat := 24

end Format

/-- `pack` (R69): the fields shifted to their places and or-ed together. -/
def packChannels (c : Channels) : Pixel :=
  (c.brightness.setWidth 32 <<< Format.brightnessPos) ||| (c.red.setWidth 32 <<< Format.redPos)
    ||| (c.green.setWidth 32 <<< Format.greenPos) ||| (c.blue.setWidth 32 <<< Format.bluePos)

/-- `unpack` (R70): total, bits 31:29 ignored. -/
def unpackPixel (v : Pixel) : Channels where
  red := v.extractLsb' Format.redPos 8
  green := v.extractLsb' Format.greenPos 8
  blue := v.extractLsb' Format.bluePos 8
  brightness := v.extractLsb' Format.brightnessPos 5

/-- `encode` (R72): the four wire bytes in the order they are sent, marker and brightness, blue, green, red (R48 to R50). -/
def wireBytes (v : Pixel) : List Byte :=
  [Format.marker ++ (unpackPixel v).brightness, (unpackPixel v).blue, (unpackPixel v).green, (unpackPixel v).red]

/-- One bit cell (R51, R83): data, then clock high, then clock low. -/
def bitCell (bit : Bool) : List LineEvent :=
  [⟨.data, bit⟩, ⟨.clk, true⟩, ⟨.clk, false⟩]

/-- `clockPulse` (R82). -/
def clockPulseTrace : List LineEvent :=
  [⟨.clk, true⟩, ⟨.clk, false⟩]

/-- `writeByte` (R83): bit 7 first, bit 0 last. -/
def writeByteTrace (b : Byte) : List LineEvent :=
  bitCell (b.getLsbD 7) ++ bitCell (b.getLsbD 6) ++ bitCell (b.getLsbD 5) ++ bitCell (b.getLsbD 4)
    ++ bitCell (b.getLsbD 3) ++ bitCell (b.getLsbD 2) ++ bitCell (b.getLsbD 1) ++ bitCell (b.getLsbD 0)

/-- `rep(n, L)` of R6: the list repeated and concatenated. -/
def rep {α : Type} : Nat → List α → List α
  | 0, _ => []
  | n + 1, l => l ++ rep n l

/-- `preamble` (R85): one zero byte per LED. -/
def preambleTrace (n : Nat) : List LineEvent :=
  rep (Format.preambleBytes n) (writeByteTrace Format.preambleByte)

/-- `word(v)` of R86: the four wire bytes of one pixel. -/
def wordTrace (v : Pixel) : List LineEvent :=
  (wireBytes v).flatMap writeByteTrace

/-- `data(p)` (R86): the words in buffer order, nothing between them. -/
def dataTrace (p : List Pixel) : List LineEvent :=
  p.flatMap wordTrace

/-- `latch` (R87): data low, then the clock pulses. -/
def latchTrace : List LineEvent :=
  ⟨.data, false⟩ :: rep Format.latchPulses clockPulseTrace

/-- `render` (R88) for `n` lights whose buffer holds `p`: preamble, data, latch. -/
def renderTrace (n : Nat) (p : List Pixel) : List LineEvent :=
  preambleTrace n ++ dataTrace p ++ latchTrace

/-- The trace of INIT (R102): power-enable high, then a dark frame. -/
def initTrace (n : Nat) : List LineEvent :=
  ⟨.pwr, true⟩ :: renderTrace n (List.replicate n 0)

/-- The level a line has after some events, from the level it had (R17). -/
def levelAfter (line : Line) : Option Bool → List LineEvent → Option Bool
  | v, [] => v
  | v, e :: es => levelAfter line (if e.line = line then some e.level else v) es

end Sys2Proof.Machine
end

