-- ==== Sys2Proof/Machine/Operands.lean ====
section
/-! DEFINITION. The Parameter Validator (40_pixel_ops.md R68) and the passage from SETLIGHT's integer operands to the fields
of a packed pixel (R57, R69). -/

namespace Sys2Proof.Machine

/-- `lo <= x <= hi` on integers, no wrap-around (R73 (a)). -/
def inRange (lo hi x : Int) : Bool :=
  decide (lo ≤ x) && decide (x ≤ hi)

/-- `validate` (R68): the first failing bound in the order of the signature (R117, D10; log entry 15), `none` when it
succeeds. A pure function of its operands and `N`. -/
def firstFailing (n : Nat) (i r g b br : Int) : Option Bound :=
  if !inRange 0 ((n : Int) - 1) i then some .index
  else if !inRange 0 Format.channelMax r then some .red
  else if !inRange 0 Format.channelMax g then some .green
  else if !inRange 0 Format.channelMax b then some .blue
  else if !inRange 0 Format.brightnessMax br then some .brightness
  else none

/-- The fields of validated operands (R57, R69): in range, so nothing is lost. -/
def channelsOf (r g b br : Int) : Channels where
  red := BitVec.ofInt 8 r
  green := BitVec.ofInt 8 g
  blue := BitVec.ofInt 8 b
  brightness := BitVec.ofInt 5 br

/-- `pack(r, g, b, brightness)` of validated operands (R69). -/
def packOperands (r g b br : Int) : Pixel :=
  packChannels (channelsOf r g b br)

/-- Three different pins (R16, D7): what INIT's operands and the instance's power-enable pin must be. -/
def pinsDistinct (dataPin clockPin powerPin : Pin) : Bool :=
  (dataPin != clockPin) && (dataPin != powerPin) && (clockPin != powerPin)

end Sys2Proof.Machine
end

