-- ==== Sys2Proof/Machine/Ops.lean ====
section
/-! DEFINITION. The named operations over the state: reading and writing line levels (R17), performing line events through
the Line Driver (R80, R93), accessing the Pixel Buffer (R31, R65), delivering a response (R58), and raising the two errors,
each ONE shared operation (60_exceptions.md R120, R121). -/

namespace Sys2Proof.Machine

/-- What an operation answers. -/
abbrev Result := Host.Outcome State Fault Refusal

/-- The level a line was last driven to (R17). -/
def State.level (s : State) : Line → Option Bool
  | .pwr => s.levelPwr
  | .data => s.levelData
  | .clk => s.levelClk

/-- A line event sets its line's level and changes nothing else (R17). -/
def State.setLevel (s : State) (e : LineEvent) : State :=
  match e.line with
  | .pwr => { s with levelPwr := some e.level }
  | .data => { s with levelData := some e.level }
  | .clk => { s with levelClk := some e.level }

/-- The observer records one performed event (R93: "the event is appended to the history"). -/
def State.record (s : State) (e : LineEvent) : State :=
  { s with history := s.history ++ [e] }

/-- Delivers a response to the host (R58, R100 (4)). -/
def State.respond (s : State) (r : Response) : State :=
  { s with responses := s.responses ++ [r] }

/-- A micro-operation returns a value. -/
def State.returning (s : State) (v : Value) : State :=
  { s with ret := v }

/-- A command's trace becomes the events still to perform (R19, R93 (1)). -/
def State.withPending (s : State) (es : List LineEvent) : State :=
  { s with pending := es }

/-- Replaces the allocated buffer. -/
def State.withBuf (s : State) (p : List Pixel) : State :=
  { s with buf := some p }

/-- The Line Driver after it has completed one more call, `none` when it hangs in the call (R93). -/
def LineDriver.call : LineDriver → Option LineDriver
  | .ready => some .ready
  | .hangsAfter 0 => none
  | .hangsAfter (k + 1) => some (.hangsAfter k)

/-- The Line Driver completes this many more calls (R155: the only premise a claim of completion needs). -/
def LineDriver.completes (calls : Nat) : LineDriver → Bool
  | .ready => true
  | .hangsAfter k => decide (calls ≤ k)

/-- The Line Driver after it has completed this many calls. -/
def LineDriver.afterCalls (calls : Nat) : LineDriver → LineDriver
  | .ready => .ready
  | .hangsAfter k => .hangsAfter (k - calls)

/-- One `setState` call (R80, R93 (2)): the driver completes it, the level is written, the event recorded. -/
def perform (e : LineEvent) (s : State) : Result :=
  match s.driver.call with
  | none => .fault .lineDriverHung
  | some d => .next ({ s with driver := d }.setLevel e |>.record e)

/-- Performs events in order, each before the next is issued (R40, R145). -/
def performAll : List LineEvent → State → Result
  | [], s => .next s
  | e :: es, s =>
    match perform e s with
    | .next t => performAll es t
    | .fault f => .fault f
    | .refused r => .refused r

/-- `raise InvalidArgument(index, bound)` (R120): the response, and nothing else. -/
def raiseInvalidArgument (index : Int) (bound : Bound) (s : State) : Result :=
  .next (s.respond (.invalidArgument index bound))

/-- `raise PreconditionViolation` (R121): the sticky fault flag and the response, and nothing else. -/
def raisePreconditionViolation (s : State) : Result :=
  .next ({ s with fault := some .preconditionViolation }.respond .preconditionViolation)

/-- An operation on the allocated buffer; a read of `None` is a fault, never zero (R18, D24; log entry 25). -/
def withBuffer (s : State) (f : List Pixel → Result) : Result :=
  match s.buf with
  | none => .fault .bufferUnallocated
  | some p => f p

/-- `0 <= i < N` (R31, R37). -/
def State.hasCell (s : State) (i : Int) : Bool :=
  inRange 0 ((s.N : Int) - 1) i

/-- `buf[i]` (R31): `none` where there is no such cell or no buffer. -/
def State.cell (s : State) (i : Nat) : Option Pixel :=
  match s.buf with
  | none => none
  | some p => p[i]?

/-- `buf[i] <- v` (R31): cell `i` replaced, every other cell unchanged. -/
def State.writeCell (s : State) (p : List Pixel) (i : Int) (v : Pixel) : State :=
  s.withBuf (p.set i.toNat v)

/-- `resetAll` (R67): every cell 0, the length unchanged. -/
def clearCells (p : List Pixel) : List Pixel :=
  p.map fun _ => 0

/-- A freshly allocated, zeroed buffer of `n` cells (R102). -/
def freshCells (n : Nat) : List Pixel :=
  List.replicate n 0

/-- The Pixel Buffer's canonical form in an instance of `n` lights: once allocated, exactly `n` cells (R18), each with bits
31:29 zero (R20, R47). A list of cells has no other freedom, so equal buffers are equal data (log entry 24). -/
def Memory.wf (n : Nat) (buf : Option (List Pixel)) : Bool :=
  match buf with
  | none => true
  | some p => decide (p.length = n) && p.all fun v => v.extractLsb' 29 3 == 0#3

end Sys2Proof.Machine
end

