-- ==== Sys2Proof/Machine/Flags.lean ====
section
/-! DEFINITION. The flags of the encoder and what reads them: the lifecycle (R13), the sticky fault flag (R14), and the two
checks every command goes through (42_commands.md R100 (1) and (2)). -/

namespace Sys2Proof.Machine

/-- `cmd_ready` (R55, R100 (1)): no command in execution and the fault flag clear. -/
def State.ready (s : State) : Bool :=
  s.pending.isEmpty && s.fault.isNone

/-- R100 (1): a command that is not accepted is not taken, and nothing happens (R107, last row). -/
def whenAccepted (s : State) (body : Result) : Result :=
  if s.ready then body else .next s

/-- R100 (2), R118, R122: SETLIGHT, RENDER and RESETALL require `Initialized`; the check comes before any operand is
examined. -/
def whenInitialized (s : State) (body : Result) : Result :=
  match s.lifecycle with
  | .uninitialized => raisePreconditionViolation s
  | .initialized => body

end Sys2Proof.Machine
end

