-- ==== Sys2Proof/Machine/Commands.lean ====
section
/-! DEFINITION. The meanings of the four commands (42_commands.md R100 to R107). Each is R93's Accept: the checks and the
buffer writes at once, the command's trace put into `st.pending` for the engine's Write steps; a command with an empty trace
responds at once (R100 (4)). -/

namespace Sys2Proof.Machine

/-- INIT (R102), in either lifecycle state (R103): the whole body runs again on a second INIT. The lifecycle, the bindings
and the buffer are written at acceptance (R102, D15; log entry 17). Equal pins: no meaning (R16, D7). -/
def execInit (dataPin clockPin : Pin) (s : State) : Result :=
  whenAccepted s <|
    if pinsDistinct dataPin clockPin s.powerPin then
      .next
        { s with
          bindData := some dataPin
          bindClock := some clockPin
          buf := some (clearCells (freshCells s.N))
          lifecycle := .initialized
          pending := initTrace s.N }
    else .refused .pinsNotDistinct

/-- SETLIGHT (R104): lifecycle, validate, pack and store, respond; no line event in any case. -/
def execSetlight (i r g b br : Int) (s : State) : Result :=
  whenAccepted s <| whenInitialized s <|
    match firstFailing s.N i r g b br with
    | some bound => raiseInvalidArgument i bound s
    | none => withBuffer s fun p => .next ((s.writeCell p i (packOperands r g b br)).respond .ok)

/-- RENDER (R105): one frame of the buffer. -/
def execRender (s : State) : Result :=
  whenAccepted s <| whenInitialized s <|
    withBuffer s fun p => .next (s.withPending (renderTrace s.N p))

/-- RESETALL (R106): the buffer is zeroed before the frame is built. -/
def execResetall (s : State) : Result :=
  whenAccepted s <| whenInitialized s <|
    withBuffer s fun p => .next ((s.withBuf (clearCells p)).withPending (renderTrace s.N (clearCells p)))

end Sys2Proof.Machine
end

