-- ==== Sys2Proof/Machine/PixelOps.lean ====
section
/-! DEFINITION. The meanings of the pixel micro-operations (40_pixel_ops.md R65 to R72). They cannot be issued at the command
port (R63), so no acceptance and no lifecycle check apply to them (90_conflicts.md C7); what they return goes to `ret` and
what they raise goes through the shared operations (log entries 9, 10, 11). -/

namespace Sys2Proof.Machine

/-- BUF_SET (R65); an index outside `0 .. N-1` has the outcome of R121 and writes nothing, allocated or not (R37, R119, U4). -/
def execBufSet (index : Int) (packedValue : Pixel) (s : State) : Result :=
  if s.hasCell index then withBuffer s fun p => .next (s.writeCell p index packedValue)
  else raisePreconditionViolation s

/-- BUF_ALL (R66): the sequence of current packed values, front to back. -/
def execBufAll (s : State) : Result :=
  withBuffer s fun p => .next (s.returning (.pixels p))

/-- BUF_RESETALL (R67): every element 0. -/
def execBufResetall (s : State) : Result :=
  withBuffer s fun p => .next (s.withBuf (clearCells p))

/-- VALIDATE (R68): ok, or InvalidArgument with the first failing bound; no state is written either way but for the answer. -/
def execValidate (i r g b br : Int) (s : State) : Result :=
  match firstFailing s.N i r g b br with
  | some bound => raiseInvalidArgument i bound s
  | none => .next (s.returning .ok)

/-- PACK (R69). -/
def execPack (red green blue : BitVec 8) (brightness : BitVec 5) (s : State) : Result :=
  .next (s.returning (.pixel (packChannels ⟨red, green, blue, brightness⟩)))

/-- UNPACK (R70). -/
def execUnpack (packedValue : Pixel) (s : State) : Result :=
  .next (s.returning (.channels (unpackPixel packedValue)))

/-- ENCODE (R72). -/
def execEncode (packedValue : Pixel) (s : State) : Result :=
  .next (s.returning (.bytes (wireBytes packedValue)))

end Sys2Proof.Machine
end

