-- ==== Sys2Proof/Machine/Transmission.lean ====
section
/-! DEFINITION. The meanings of the transmission micro-operations (41_transmission.md R80 to R88): "performing" one means
performing the events of its trace in order, each a `setState` call of the Line Driver. -/

namespace Sys2Proof.Machine

/-- EMIT (R80, R81): one event, whether or not the level changes. -/
def execEmit (line : Line) (level : Bool) (s : State) : Result :=
  perform ⟨line, level⟩ s

/-- CLOCKPULSE (R82). -/
def execClockpulse (s : State) : Result :=
  performAll clockPulseTrace s

/-- WRITEBYTE (R83). -/
def execWritebyte (b : Byte) (s : State) : Result :=
  performAll (writeByteTrace b) s

/-- PREAMBLE (R85): reads `N` only. -/
def execPreamble (s : State) : Result :=
  performAll (preambleTrace s.N) s

/-- DATA (R86) of the snapshot it is given. -/
def execData (p : List Pixel) (s : State) : Result :=
  performAll (dataTrace p) s

/-- LATCH (R87). -/
def execLatch (s : State) : Result :=
  performAll latchTrace s

/-- RENDER_MICRO (R88): reads `N` and the buffer. -/
def execRenderMicro (s : State) : Result :=
  withBuffer s fun p => performAll (renderTrace s.N p) s

end Sys2Proof.Machine
end

