-- ==== Sys2Proof/Machine/Dispatch.lean ====
section
/-! DEFINITION. One arm per instruction: the four commands and the fourteen micro-operations of spec/opcode_table.json. -/

namespace Sys2Proof.Machine

/-- What an instruction does to the state. -/
def exec (i : Instr) (s : State) : Host.Outcome State Fault Refusal :=
  match i with
  | .init dataPin clockPin => Sys2Proof.Machine.execInit dataPin clockPin s
  | .setlight index red green blue brightness => Sys2Proof.Machine.execSetlight index red green blue brightness s
  | .render => Sys2Proof.Machine.execRender s
  | .resetall => Sys2Proof.Machine.execResetall s
  | .bufSet index packedValue => Sys2Proof.Machine.execBufSet index packedValue s
  | .bufAll => Sys2Proof.Machine.execBufAll s
  | .bufResetall => Sys2Proof.Machine.execBufResetall s
  | .validate lightIndex red green blue brightness => Sys2Proof.Machine.execValidate lightIndex red green blue brightness s
  | .pack red green blue brightness => Sys2Proof.Machine.execPack red green blue brightness s
  | .unpack packedValue => Sys2Proof.Machine.execUnpack packedValue s
  | .encode packedValue => Sys2Proof.Machine.execEncode packedValue s
  | .emit line level => Sys2Proof.Machine.execEmit line level s
  | .clockpulse => Sys2Proof.Machine.execClockpulse s
  | .writebyte b => Sys2Proof.Machine.execWritebyte b s
  | .preamble => Sys2Proof.Machine.execPreamble s
  | .data p => Sys2Proof.Machine.execData p s
  | .latch => Sys2Proof.Machine.execLatch s
  | .renderMicro => Sys2Proof.Machine.execRenderMicro s

end Sys2Proof.Machine
end

