-- ==== Sys2Proof/Machine/Engine.lean ====
section
/-! DEFINITION. The engine's moves (41_transmission.md R93): a Write step, an idle step, the acceptance of the command the
host presents, and the host's reset (70_reset_and_hazards.md R140 to R142). -/

namespace Sys2Proof.Machine

/-- R93 (2) and (3): the head of `st.pending` is performed; with the last event the command's response is delivered, which is
OK because no command raises an error after it has emitted an event (R100 (4), R134; log entry 2). -/
def writeStep (e : LineEvent) (rest : List LineEvent) (s : State) : Result :=
  match perform e s with
  | .next t => .next (if rest.isEmpty then (t.withPending rest).respond .ok else t.withPending rest)
  | .fault f => .fault f
  | .refused r => .refused r

/-- What the engine does of itself: a Write step while a command is in execution, else nothing (R110, R121). -/
def advance (s : State) : Result :=
  match s.pending with
  | [] => .next s
  | e :: rest => writeStep e rest s

/-- The state after the host's reset: R22's record in a new instance with the same power-enable pin; the events already
performed and the responses already given stay what they were, and what was pending is never performed (R141, R142). -/
def State.renewed (s : State) (n : Nat) : State :=
  { State.new n s.powerPin with
    host := s.host
    driver := s.driver
    history := s.history
    responses := s.responses }

/-- `new(numberOfLights)` issued by the host (R101, R140), in mid-command too (R141). -/
def resetMove (n : Int) (s : State) : Result :=
  if legalLightCount n then .next (s.renewed n.toNat) else .refused .illegalLightCount

/-- The host's next moves, the first one taken. -/
def State.withHost (s : State) (moves : List HostMove) : State :=
  { s with host := moves }

/-- R93 (1) and R100 (1): the engine takes the command the host presents when it is ready, and otherwise goes on with the
command in execution while the host goes on presenting. -/
def acceptOrAdvance (w : CmdWord) (rest : List HostMove) (s : State) : Result :=
  if s.ready then exec (decode w) (s.withHost rest) else advance s

/-- `s` with a command transfer placed where the next step takes it: presented by the host to an engine that is ready. -/
def State.presenting (s : State) (w : CmdWord) : State :=
  { s with host := .command w :: s.host, pending := [], fault := none }

end Sys2Proof.Machine
end

