-- ==== Sys2Proof/Machine/Step.lean ====
section
/-! DEFINITION. One step of the machine: the host's next move and the engine's (log entries 1 and 3). -/

namespace Sys2Proof.Machine

/-- One step. The host waits, resets, or presents a command; with no move left it waits for ever (R110). -/
def step (s : State) : Host.Outcome State Fault Refusal :=
  match s.host with
  | [] => advance s
  | .wait :: rest => advance (s.withHost rest)
  | .reset n :: rest => resetMove n (s.withHost rest)
  | .command w :: rest => acceptOrAdvance w rest s

/-- `s` with the transfer whose first `nbits` bits are `w` presented at the command port, so that the next step takes it
(log entries 3 and 8). -/
def State.withFetchWord (s : State) (nbits w : Nat) : State :=
  s.presenting (CmdWord.ofTableWord nbits w)

end Sys2Proof.Machine
end

