-- ==== Sys2Proof/Machine/Assembler.lean ====
section
/-! DEFINITION. The text form of a program (30_encoding.md R61, R62, D19): one call a line, operands as decimal integers with
an optional leading minus sign. `parseLine` reads a line's characters, `assemble` gives the host move it stands for. -/

namespace Sys2Proof.Machine

/-- A line's move (R61, R62): `new` is the reset, every other line one transfer, `show` the same transfer as `render`.
An operand that no 32-bit port can carry is not assembled (D4; log entry 32). -/
def assemble : SourceLine → Option HostMove
  | .new n => some (.reset n)
  | .init d c =>
    if fitsPort d && fitsPort c then
      some (.command ⟨0b00, BitVec.ofInt 32 d, BitVec.ofInt 32 c, 0, 0, 0⟩)
    else none
  | .setLight i r g b br =>
    if (Instr.setlight i r g b br).wellFormed then (encode (.setlight i r g b br)).map .command else none
  | .render => (encode .render).map .command
  | .show => (encode .render).map .command
  | .resetAllLights => (encode .resetall).map .command

/-- The value of a decimal digit. -/
def digitValue (c : Char) : Option Nat :=
  if '0'.toNat ≤ c.toNat ∧ c.toNat ≤ '9'.toNat then some (c.toNat - '0'.toNat) else none

/-- Reads the digits that follow a number read so far; returns the number and the rest. -/
def parseDigits (acc : Nat) : List Char → Nat × List Char
  | [] => (acc, [])
  | c :: cs =>
    match digitValue c with
    | some d => parseDigits (10 * acc + d) cs
    | none => (acc, c :: cs)

/-- A decimal integer with an optional leading minus sign. -/
def parseInt : List Char → Option (Int × List Char)
  | [] => none
  | c :: cs =>
    if c = '-' then
      match cs with
      | [] => none
      | d :: ds => (digitValue d).map fun v => (-((parseDigits v ds).1 : Int), (parseDigits v ds).2)
    else (digitValue c).map fun v => (((parseDigits v cs).1 : Int), (parseDigits v cs).2)

/-- A fixed text at the front. -/
def parseText : List Char → List Char → Option (List Char)
  | [], cs => some cs
  | _ :: _, [] => none
  | k :: ks, c :: cs => if k = c then parseText ks cs else none

/-- `k` integers parted by a comma and a space, then the closing parenthesis and the end of the line. -/
def parseArgs : Nat → List Char → Option (List Int)
  | 0, cs => if cs = [')'] then some [] else none
  | 1, cs =>
    match parseInt cs with
    | some (x, [')']) => some [x]
    | _ => none
  | k + 2, cs =>
    match parseInt cs with
    | some (x, ',' :: ' ' :: rest) => (parseArgs (k + 1) rest).map (x :: ·)
    | _ => none

/-- The operands of a call of this name with `k` operands. -/
def parseCall (name : String) (k : Nat) (cs : List Char) : Option (List Int) :=
  (parseText (name.toList ++ ['(']) cs).bind (parseArgs k)

/-- A line of a program (R61). -/
def parseLine (cs : List Char) : Option SourceLine :=
  match parseCall "new" 1 cs, parseCall "init" 2 cs, parseCall "setLight" 5 cs, parseCall "render" 0 cs,
      parseCall "show" 0 cs, parseCall "resetAllLights" 0 cs with
  | some [n], _, _, _, _, _ => some (.new n)
  | _, some [d, c], _, _, _, _ => some (.init d c)
  | _, _, some [i, r, g, b, br], _, _, _ => some (.setLight i r g b br)
  | _, _, _, some [], _, _ => some .render
  | _, _, _, _, some [], _ => some .show
  | _, _, _, _, _, some [] => some .resetAllLights
  | _, _, _, _, _, _ => none

end Sys2Proof.Machine
end

