-- ==== Sys2Proof/Machine/Ports.lean ====
section
/-! DEFINITION. The ports of the block as views of the state (D2): `cmd_valid`/`cmd_ready` (R55), the response port (R58) and
the line-driver request port (R128). They add no state: each is computed from fields of `State`. -/

namespace Sys2Proof.Machine

/-- `cmd_valid` with the transfer on the command port (R55): what the host presents. -/
def State.cmdPort (s : State) : Option CmdWord :=
  match s.host with
  | .command w :: _ => some w
  | _ => none

/-- `cmd_ready` (R55, R100 (1)). -/
def State.cmdReady (s : State) : Bool :=
  s.ready

/-- `ld_req` with `ld_line` and `ld_level` (R128): the call the engine is making, if it is making one. -/
def State.ldPort (s : State) : Option LdWord :=
  s.pending.head?.map encodeEvent

/-- `ld_ack` (R128): the Line Driver completes the call being made. -/
def State.ldAck (s : State) : Bool :=
  s.driver.call.isSome

/-- The k-th response as the response port carried it (R58). -/
def State.rspPort (s : State) (k : Nat) : Option RspWord :=
  s.responses[k]?.map (encodeResponse k)

end Sys2Proof.Machine
end

