-- ==== Sys2Proof/Machine/Receiver.lean ====
section
/-! DEFINITION. Views of a trace: the bytes and bits of a frame and the event of each number (41_transmission.md R89), the
counts of R53, and the stream a receiver that samples on the clock's rising edge reads (R92: a reading aid; nothing of the
strip is modelled, log entry 23). -/

namespace Sys2Proof.Machine

/-- The bits of a byte in the order they are sent (R35, R83). -/
def byteBits (b : Byte) : List Bool :=
  [b.getLsbD 7, b.getLsbD 6, b.getLsbD 5, b.getLsbD 4, b.getLsbD 3, b.getLsbD 2, b.getLsbD 1, b.getLsbD 0]

/-- `bytes(p)` of R89. -/
def frameBytes (n : Nat) (p : List Pixel) : List Byte :=
  rep n [0x00#8] ++ p.flatMap wireBytes

/-- `bits(p)` of R89. -/
def frameBits (n : Nat) (p : List Pixel) : List Bool :=
  (frameBytes n p).flatMap byteBits

/-- The event of number `e` in a frame (R89), `none` past its end. -/
def frameEvent (n : Nat) (p : List Pixel) (e : Nat) : Option LineEvent :=
  if e < 120 * n then
    if e % 3 = 0 then (frameBits n p)[e / 3]?.map fun b => ⟨.data, b⟩
    else some ⟨.clk, e % 3 == 1⟩
  else if e = 120 * n then some ⟨.data, false⟩
  else if e < 120 * n + 73 then some ⟨.clk, (e - (120 * n + 1)) % 2 == 0⟩
  else none

/-- How many events of a trace are on a line (R53). -/
def eventsOn (line : Line) (es : List LineEvent) : Nat :=
  es.countP fun e => e.line == line

/-- The sampled stream (R92): the DATA level in force at each `(CLK, 1)` event, from the level DATA had before. -/
def sampledStream : Option Bool → List LineEvent → List (Option Bool)
  | _, [] => []
  | _, ⟨.data, v⟩ :: es => sampledStream (some v) es
  | d, ⟨.clk, true⟩ :: es => d :: sampledStream d es
  | d, ⟨.clk, false⟩ :: es => sampledStream d es
  | d, ⟨.pwr, _⟩ :: es => sampledStream d es

/-- Whether each `(CLK, 1)` event of a trace is a rising edge, given the level CLK had before (R82, R92 caveat 1). -/
def allRisingEdges : Option Bool → List LineEvent → Bool
  | _, [] => true
  | c, ⟨.clk, true⟩ :: es => (c == some false) && allRisingEdges (some true) es
  | _, ⟨.clk, false⟩ :: es => allRisingEdges (some false) es
  | c, ⟨.data, _⟩ :: es => allRisingEdges c es
  | c, ⟨.pwr, _⟩ :: es => allRisingEdges c es

end Sys2Proof.Machine
end

