-- ==== Sys2Proof/Machine/Position.lean ====
section
/-! DEFINITION. The sequence position inside a frame (41_transmission.md R94), the block's only counterpart of a program
counter (10_state.md R12, D21). It is not a field of the state: it says in other words how much of a frame is pending. -/

namespace Sys2Proof.Machine

/-- `sub` of R94. -/
inductive Sub where
  | setData
  | clkHigh
  | clkLow
  deriving DecidableEq, Repr

/-- `(phase, led, byte, bit, sub)` of R94, each phase with the components it uses; `latch 0 .setData` is the extra position
the Latch phase opens with. -/
inductive Position where
  | preamble (led bit : Nat) (sub : Sub)
  | data (led byte bit : Nat) (sub : Sub)
  | latch (pulse : Nat) (sub : Sub)
  deriving DecidableEq, Repr

/-- The position a render starts at. -/
def Position.first : Position := .preamble 0 7 .setData

/-- The positions a frame of `n` lights has (R94). -/
def Position.valid (n : Nat) : Position → Bool
  | .preamble led bit _ => decide (led < n) && decide (bit ≤ 7)
  | .data led byte bit _ => decide (led < n) && decide (byte ≤ 3) && decide (bit ≤ 7)
  | .latch pulse .setData => pulse == 0
  | .latch pulse _ => decide (pulse < Format.latchPulses)

/-- How the position advances (R94), `none` at the end of the frame. -/
def Position.next (n : Nat) : Position → Option Position
  | .preamble led bit .setData => some (.preamble led bit .clkHigh)
  | .preamble led bit .clkHigh => some (.preamble led bit .clkLow)
  | .preamble led (bit + 1) .clkLow => some (.preamble led bit .setData)
  | .preamble led 0 .clkLow =>
    if led + 1 < n then some (.preamble (led + 1) 7 .setData) else some (.data 0 0 7 .setData)
  | .data led byte bit .setData => some (.data led byte bit .clkHigh)
  | .data led byte bit .clkHigh => some (.data led byte bit .clkLow)
  | .data led byte (bit + 1) .clkLow => some (.data led byte bit .setData)
  | .data led byte 0 .clkLow =>
    if byte < 3 then some (.data led (byte + 1) 7 .setData)
    else if led + 1 < n then some (.data (led + 1) 0 7 .setData)
    else some (.latch 0 .setData)
  | .latch pulse .setData => some (.latch pulse .clkHigh)
  | .latch pulse .clkHigh => some (.latch pulse .clkLow)
  | .latch pulse .clkLow =>
    if pulse + 1 < Format.latchPulses then some (.latch (pulse + 1) .clkHigh) else none

/-- Where `sub` stands within a bit cell. -/
def Sub.offset : Sub → Nat
  | .setData => 0
  | .clkHigh => 1
  | .clkLow => 2

/-- The event number of a position, counted as R89 counts them. -/
def Position.number (n : Nat) : Position → Nat
  | .preamble led bit sub => 24 * led + 3 * (7 - bit) + sub.offset
  | .data led byte bit sub => 24 * n + 96 * led + 24 * byte + 3 * (7 - bit) + sub.offset
  | .latch pulse sub => 120 * n + 2 * pulse + sub.offset

/-- The level DATA is given at a position's bit: 0 in the preamble, the bit of the wire byte in the data, 0 in the latch. -/
def Position.dataBit (p : List Pixel) : Position → Bool
  | .preamble _ _ _ => false
  | .data led byte bit _ => ((wireBytes (p.getD led 0)).getD byte 0).getLsbD bit
  | .latch _ _ => false

/-- `sub` of a position. -/
def Position.sub : Position → Sub
  | .preamble _ _ sub => sub
  | .data _ _ _ sub => sub
  | .latch _ sub => sub

/-- The event at a position (R94). -/
def Position.event (p : List Pixel) (x : Position) : LineEvent :=
  match x.sub with
  | .setData => ⟨.data, x.dataBit p⟩
  | .clkHigh => ⟨.clk, true⟩
  | .clkLow => ⟨.clk, false⟩

end Sys2Proof.Machine
end

