-- ==== Sys2Proof/Safety.lean ====
section
/-! DEFINITION. What claims are stated in: the invariant every step keeps, the end of a run (42_commands.md R110), and the
completion of a command in one go (10_state.md R19, the big-step view). -/

namespace Sys2Proof.Machine

/-- The invariant of the encoder. Each field names the rules it states. -/
structure Inv (s : State) : Prop where
  /-- R10, R15: `1 <= N <= MAXN`. -/
  lightCount : legalLightCount s.N = true
  /-- R18, R20: `N` cells, bits 31:29 zero. -/
  buffer : Memory.wf s.N s.buf = true
  /-- R18: allocated from INIT on. -/
  allocated : s.buf.isSome = (s.lifecycle == .initialized)
  /-- R16: line-bound from INIT on. -/
  boundData : s.bindData.isSome = (s.lifecycle == .initialized)
  /-- R16. -/
  boundClock : s.bindClock.isSome = (s.lifecycle == .initialized)
  /-- R16, D7: the three lines are three different pins. -/
  pins : ∀ d c, s.bindData = some d → s.bindClock = some c → pinsDistinct d c s.powerPin = true
  /-- R121: a PreconditionViolation arises only before INIT, and nothing can follow it. -/
  faulted : s.fault.isSome = true → s.lifecycle = .uninitialized
  /-- R22: before INIT nothing is pending and no line has been written. -/
  untouched : s.lifecycle = .uninitialized →
    s.pending = [] ∧ s.levelPwr = none ∧ s.levelData = none ∧ s.levelClk = none
  /-- R26, R91, R152: once what is pending has been performed, PWR is high and DATA and CLK are low. -/
  idleLevels : s.lifecycle = .initialized →
    levelAfter .pwr s.levelPwr s.pending = some true ∧ levelAfter .data s.levelData s.pending = some false
      ∧ levelAfter .clk s.levelClk s.pending = some false
  /-- R144: power-enable is high, or its event is the next to be performed. -/
  powerFirst : s.lifecycle = .initialized → s.levelPwr = some true ∨ s.pending.head? = some ⟨.pwr, true⟩
  /-- R129: power-enable is never low once written, and no pending event drives it low. -/
  neverPoweredDown : s.levelPwr ≠ some false ∧ (⟨.pwr, false⟩ : LineEvent) ∉ s.pending
  /-- R144: no DATA or CLK event comes before the first `(PWR, 1)`. -/
  powerBeforeClock : s.levelPwr = none → s.levelData = none ∧ s.levelClk = none

/-- `k` steps, stopping at the first fault or refusal: `Sys2Proof.core.run` with its types written out
(Sys2Proof/Laws/Step.lean proves them equal). -/
def run : Nat → State → Result
  | 0, s => .next s
  | k + 1, s =>
    match step s with
    | .next t => run k t
    | .fault f => .fault f
    | .refused r => .refused r

/-- Whether the run the host is in has a command left: one that comes before its next reset, which begins a run (R110). -/
def commandLeft : List HostMove → Bool
  | [] => false
  | .wait :: moves => commandLeft moves
  | .reset _ :: _ => false
  | .command _ :: _ => true

/-- A run has ended (R110): every command of it has been responded to and nothing is pending; a run that raised
PreconditionViolation has ended in the faulted state, its further commands never accepted. -/
def State.ended (s : State) : Bool :=
  s.pending.isEmpty && (!commandLeft s.host || s.fault.isSome)

/-- A good end of a run (R110): ended, and not in the faulted state. -/
def State.endedWell (s : State) : Bool :=
  s.ended && s.fault.isNone

/-- The host resets the encoder in this step (R140). -/
def State.resetting (s : State) : Bool :=
  match s.host with
  | .reset _ :: _ => true
  | _ => false

/-- The state after all that is pending has been performed and the response delivered: R19's big step of the command in
execution. -/
def State.completed (s : State) : State :=
  { s with
    levelPwr := levelAfter .pwr s.levelPwr s.pending
    levelData := levelAfter .data s.levelData s.pending
    levelClk := levelAfter .clk s.levelClk s.pending
    history := s.history ++ s.pending
    driver := s.driver.afterCalls s.pending.length
    responses := if s.pending.isEmpty then s.responses else s.responses ++ [.ok]
    pending := [] }

/-- The state after the events of a trace have been performed by a Line Driver that completes these calls. -/
def State.performed (s : State) (es : List LineEvent) : State :=
  { s with
    levelPwr := levelAfter .pwr s.levelPwr es
    levelData := levelAfter .data s.levelData es
    levelClk := levelAfter .clk s.levelClk es
    history := s.history ++ es
    driver := s.driver.afterCalls es.length }

end Sys2Proof.Machine
end

