-- ==== Sys2Proof/Certificates/Slice0/Obligations.lean ====
section
/-! DEFINITION. The statements for the provers. Each docstring names the rule of the spec it formalises. Where a conclusion is
an equation for the whole next state, every field it does not name is unchanged: that equation is the frame as well. -/

open Sys2Proof Sys2Proof.Machine

/-! Encodings. -/

/-- R56: the four opcodes and the operand order, on transfers written out from the opcode map. Operand -1 is all ones (R57). -/
def Obligations.OpcodeMapDecodes : Prop :=
  decode ⟨0b00, 10, 11, 7, 8, 9⟩ = .init 10 11
    ∧ decode ⟨0b01, 1, 2, 3, 4, 5⟩ = .setlight 1 2 3 4 5
    ∧ decode ⟨0b01, 0xFFFFFFFF, 0x12C, 0, 0, 0x28⟩ = .setlight (-1) 300 0 0 40
    ∧ decode ⟨0b10, 1, 2, 3, 4, 5⟩ = .render
    ∧ decode ⟨0b11, 1, 2, 3, 4, 5⟩ = .resetall

/-- R55, R56, R57: for every well-formed instruction, a command is read back from its transfer with every operand at every
value a port can carry, whatever the operand ports it does not use carry; a micro-operation has no transfer (R63). -/
def Obligations.DecodeOfEncodeIsTheInstruction : Prop :=
  ∀ i : Instr, i.wellFormed = true →
    (i.isCommand = false ∧ encode i = none)
      ∨ (i.isCommand = true ∧ ∃ w, encode i = some w ∧ decode w = i ∧
          ∀ v : CmdWord, v.op = w.op →
            (∀ d c, i = .init d c → v.a0 = w.a0 ∧ v.a1 = w.a1) →
            (∀ x r g b br, i = .setlight x r g b br →
              v.a0 = w.a0 ∧ v.a1 = w.a1 ∧ v.a2 = w.a2 ∧ v.a3 = w.a3 ∧ v.a4 = w.a4) →
            decode v = i)

/-- Log entry 8 (the model's choice): the numbering of a transfer's bits loses none of them. -/
def Obligations.TransferBitsRoundTrip : Prop :=
  ∀ w : CmdWord, CmdWord.ofBits w.toBits = w ∧ w.toBits < 2 ^ 162

/-- R58, R117: what the response port carries is read back as the response, for an index that fits the port; the status and
bound codes are those of the tables, and status 3 and bound codes 5 to 7 are never produced (R59). -/
def Obligations.ResponsePortRoundTrip : Prop :=
  ∀ k : Nat,
    (∀ r : Response, (encodeResponse k r).status ≠ 3 ∧ (encodeResponse k r).bound.toNat < 5)
    ∧ decodeResponse (encodeResponse k .ok) = .ok .ok ∧ (encodeResponse k .ok).status = 0
    ∧ decodeResponse (encodeResponse k .preconditionViolation) = .ok .preconditionViolation
    ∧ (encodeResponse k .preconditionViolation).status = 2
    ∧ ∀ (i : Int) (b : Bound), fitsPort i = true →
        decodeResponse (encodeResponse k (.invalidArgument i b)) = .ok (.invalidArgument i b)
        ∧ (encodeResponse k (.invalidArgument i b)).status = 1
        ∧ (encodeResponse k (.invalidArgument i b)).bound =
            (match b with | .index => 0#3 | .red => 1#3 | .green => 2#3 | .blue => 3#3 | .brightness => 4#3)

/-- R128, R59: a line-driver request is read back as the call it stands for, and line code 3 is no call. -/
def Obligations.LineDriverPortRoundTrip : Prop :=
  (∀ e : LineEvent, decodeEvent (encodeEvent e) = .ok e)
    ∧ (∀ v, encodeEvent ⟨.pwr, v⟩ = ⟨0, BitVec.ofBool v⟩)
    ∧ (∀ v, encodeEvent ⟨.data, v⟩ = ⟨1, BitVec.ofBool v⟩)
    ∧ (∀ v, encodeEvent ⟨.clk, v⟩ = ⟨2, BitVec.ofBool v⟩)
    ∧ ∀ w : LdWord, w.line = 3 → decodeEvent w = .error .lineNeverProduced

/-- R61, R62: each kind of line of a program's text stands for its move; `show()` for the same transfer as `render()`. -/
def Obligations.ProgramLinesAssemble : Prop :=
  (parseLine "new(3)".toList).bind assemble = some (.reset 3)
    ∧ (parseLine "init(10, 11)".toList).bind assemble = some (.command ⟨0b00, 10, 11, 0, 0, 0⟩)
    ∧ (parseLine "setLight(-1, 300, 0, 0, 40)".toList).bind assemble
        = some (.command ⟨0b01, 0xFFFFFFFF, 0x12C, 0, 0, 0x28⟩)
    ∧ (parseLine "render()".toList).bind assemble = some (.command ⟨0b10, 0, 0, 0, 0, 0⟩)
    ∧ (parseLine "show()".toList).bind assemble = some (.command ⟨0b10, 0, 0, 0, 0, 0⟩)
    ∧ (parseLine "resetAllLights()".toList).bind assemble = some (.command ⟨0b11, 0, 0, 0, 0, 0⟩)

/-! The step. -/

/-- R93 (1), R100 (1): when no command is in execution and the fault flag is clear, the step runs the command the host
presents, and the host's moves go on after it; that is all the step adds around `exec`. -/
def Obligations.StepRunsThePresentedCommand : Prop :=
  ∀ (s : State) (w : CmdWord) (rest : List HostMove), s.host = .command w :: rest → s.pending = [] → s.fault = none →
    step s = exec (decode w) { s with host := rest }

/-- R100 (1), R107 last row: while a command is in execution or the fault flag is set, no command is taken: executing one
leaves the state as it is. -/
def Obligations.CommandNotTakenWhileBusyOrFaulted : Prop :=
  ∀ (i : Instr) (s : State), i.isCommand = true → (s.pending ≠ [] ∨ s.fault ≠ none) → exec i s = .next s

/-- R93 (2), (3), R17: with an event pending, an ordinary step (the host waits, or holds a command) performs exactly that event
through the Line Driver, and with the last one the response is delivered in the same step (log entry 2, the model's choice);
the host's presented command stays presented. -/
def Obligations.WriteStepPerformsThePendingEvent : Prop :=
  ∀ (s : State) (e : LineEvent) (rest : List LineEvent), s.pending = e :: rest → s.driver.completes 1 = true →
    (s.host = [] ∨ ∃ w moves, s.host = .command w :: moves) →
    step s = .next
      { s with
        levelPwr := if e.line = .pwr then some e.level else s.levelPwr
        levelData := if e.line = .data then some e.level else s.levelData
        levelClk := if e.line = .clk then some e.level else s.levelClk
        pending := rest
        history := s.history ++ [e]
        responses := if rest = [] then s.responses ++ [.ok] else s.responses
        driver := s.driver.afterCalls 1 }

/-- R93, R150: a Line Driver that does not complete the call leaves the engine without a step, whatever the host does short of
a reset. That the stuck engine is a fault is the model's choice (log entry 12). -/
def Obligations.HungLineDriverStopsTheEngine : Prop :=
  ∀ s : State, s.pending ≠ [] → s.driver = .hangsAfter 0 → s.resetting = false → step s = .fault .lineDriverHung

/-- R110: an encoder whose commands have all been responded to has ended its run, is idle and stays idle: with no move of the
host left the state stays as it is; with nothing pending and waits only before the next reset, or with the fault flag set
(the end that is not a good one), the run has ended, and a step that is no reset changes the host's moves at most and the run
stays ended as it did. A command still to be answered keeps the run from ending. -/
def Obligations.IdleEncoderStaysIdle : Prop :=
  (∀ s : State, s.host = [] → s.pending = [] → s.ended = true ∧ step s = .next s)
  ∧ (∀ (s : State) (k : Nat) (later : List HostMove), s.pending = [] →
      s.host = List.replicate k .wait ++ later → (later = [] ∨ ∃ n moves, later = .reset n :: moves) → s.ended = true)
  ∧ (∀ (s : State) (k : Nat) (w : CmdWord) (later : List HostMove), s.fault = none →
      s.host = List.replicate k .wait ++ .command w :: later → s.ended = false)
  ∧ (∀ s : State, s.pending = [] → s.fault ≠ none → s.ended = true ∧ s.endedWell = false)
  ∧ ∀ s : State, s.ended = true → s.resetting = false →
      ∃ moves, step s = .next { s with host := moves } ∧ ({ s with host := moves } : State).ended = true
        ∧ ({ s with host := moves } : State).endedWell = s.endedWell

/-- R110, R156 (log entry 3): a host move of waiting only lets the engine go on: it is the step of the same machine with the
move taken off. -/
def Obligations.WaitingHostLetsTheEngineGoOn : Prop :=
  ∀ (s : State) (rest : List HostMove), s.host = .wait :: rest →
    (s.pending = [] → step s = .next { s with host := rest })
    ∧ (s.pending ≠ [] → ∀ t, step { s with host := [] } = .next t → step s = .next { t with host := rest })

/-! Reset. -/

/-- R22: the state after reset of an instance of any light count, and of the instance the model starts from, whose count is the
model's choice (log entry 4) and is only said to be positive. Unknown levels and the fault flag are the spec's decisions D8
and D12. -/
def Obligations.ResetLeavesEveryFieldAsTabled : Prop :=
  (∀ n pin, (State.new n pin).N = n ∧ (State.new n pin).lifecycle = .uninitialized ∧ (State.new n pin).fault = none
    ∧ (State.new n pin).buf = none ∧ (State.new n pin).bindData = none ∧ (State.new n pin).bindClock = none
    ∧ (State.new n pin).levelPwr = none ∧ (State.new n pin).levelData = none ∧ (State.new n pin).levelClk = none
    ∧ (State.new n pin).pending = [])
  ∧ ∃ n pin, State.reset = State.new n pin ∧ 1 ≤ n

/-- R140, R141, R142: a reset at any moment, in mid-command too, puts every field of `st` at its reset value with the new
count; the events already performed stay performed, the rest are never performed, no event is emitted and no response is
delivered, and the recorded levels return to unknown. That the host may reset in mid-command, and what the model's own fields
do, is log entry 21 (the spec's decision D18). -/
def Obligations.HostResetMakesANewInstance : Prop :=
  ∀ (s : State) (n : Int) (rest : List HostMove), s.host = .reset n :: rest → 1 ≤ n → n ≤ 2147483647 →
    step s = .next
      { s with
        N := n.toNat, lifecycle := .uninitialized, fault := none, buf := none, bindData := none, bindClock := none
        levelPwr := none, levelData := none, levelClk := none, pending := []
        host := rest, ret := .nothing }

/-- R101, U8 (and log entry 5 for the upper bound, the model's choice): a count that is not positive makes no instance. -/
def Obligations.IllegalLightCountIsRefused : Prop :=
  ∀ (s : State) (n : Int) (rest : List HostMove), s.host = .reset n :: rest → (n < 1 ∨ 2147483647 < n) →
    step s = .refused .illegalLightCount

/-! Pixel operations. -/

/-- R31, R65: `set` with a validated index replaces that cell and no other, and changes nothing else. -/
def Obligations.BufSetReplacesOneCell : Prop :=
  ∀ (s : State) (p : List Pixel) (i : Int) (v : Pixel), s.buf = some p → p.length = s.N → 0 ≤ i → i < s.N →
    ∃ t, exec (.bufSet i v) s = .next t ∧ t = { s with buf := some (p.set i.toNat v) }
      ∧ ∀ j, t.cell j = if j = i.toNat then some v else s.cell j

/-- R119, R121, U4: `set` with an index outside the buffer raises PreconditionViolation and writes nothing else, whether or not
the buffer is allocated. That a
micro-operation's error goes to `responses` is the model's choice (log entries 11 and 29). -/
def Obligations.BufSetOutsideTheBufferIsFatal : Prop :=
  ∀ (s : State) (i : Int) (v : Pixel), (i < 0 ∨ (s.N : Int) ≤ i) →
    exec (.bufSet i v) s = .next
      { s with fault := some .preconditionViolation, responses := s.responses ++ [.preconditionViolation] }

/-- R66: `all()` answers the `N` cells front to back and changes nothing but the answer. -/
def Obligations.BufAllAnswersTheSnapshot : Prop :=
  ∀ (s : State) (p : List Pixel), s.buf = some p → p.length = s.N →
    exec .bufAll s = .next { s with ret := .pixels ((List.range s.N).map fun j => (s.cell j).getD 0) }
      ∧ ∀ j, j < s.N → (s.cell j).isSome = true

/-- R67: `resetAll()` makes every cell 0, keeps the length, and changes nothing else. -/
def Obligations.BufResetallZeroesEveryCell : Prop :=
  ∀ (s : State) (p : List Pixel), s.buf = some p →
    ∃ t q, exec .bufResetall s = .next t ∧ t = { s with buf := some q } ∧ q.length = p.length
      ∧ ∀ j, j < p.length → t.cell j = some 0

/-- R18, D24: with the buffer not allocated, every operation that reads or writes it faults (a `set` whose index is outside
the buffer does neither: BufSetOutsideTheBufferIsFatal); none reads zero. For a write
this is the model's choice (log entry 25). -/
def Obligations.UnallocatedBufferFaults : Prop :=
  ∀ s : State, s.buf = none →
    (∀ i v, 0 ≤ i → i < s.N → exec (.bufSet i v) s = .fault .bufferUnallocated) ∧ exec .bufAll s = .fault .bufferUnallocated
    ∧ exec .bufResetall s = .fault .bufferUnallocated ∧ exec .renderMicro s = .fault .bufferUnallocated

/-- R68: `validate` succeeds exactly when the index is in `0 .. N-1`, each channel in `0 .. 255` and the brightness in
`0 .. 31`; otherwise it raises InvalidArgument with the index as presented and the first failing bound in signature order
(R117, decision D10). Nothing else is written either way. That ok goes to `ret` is log entry 10, and that VALIDATE alone
answers its error at the responses is log entry 11: the model's choices. -/
def Obligations.ValidateTestsBoundsInSignatureOrder : Prop :=
  ∀ (s : State) (i r g b br : Int),
    exec (.validate i r g b br) s = .next
      (if ¬(0 ≤ i ∧ i < s.N) then { s with responses := s.responses ++ [.invalidArgument i .index] }
       else if ¬(0 ≤ r ∧ r ≤ 255) then { s with responses := s.responses ++ [.invalidArgument i .red] }
       else if ¬(0 ≤ g ∧ g ≤ 255) then { s with responses := s.responses ++ [.invalidArgument i .green] }
       else if ¬(0 ≤ b ∧ b ≤ 255) then { s with responses := s.responses ++ [.invalidArgument i .blue] }
       else if ¬(0 ≤ br ∧ br ≤ 31) then { s with responses := s.responses ++ [.invalidArgument i .brightness] }
       else { s with ret := .ok })

/-- R69: `pack` puts brightness, red, green and blue at bits 24, 16, 8 and 0, so that the result is the sum of the shifted
fields, and bits 31:29 are 0. -/
def Obligations.PackPlacesTheFields : Prop :=
  ∀ (s : State) (r g b : BitVec 8) (br : BitVec 5),
    ∃ v : Pixel, exec (.pack r g b br) s = .next { s with ret := .pixel v }
      ∧ v.toNat = br.toNat * 2 ^ 24 + r.toNat * 2 ^ 16 + g.toNat * 2 ^ 8 + b.toNat
      ∧ v.extractLsb' 29 3 = 0#3

/-- R70: `unpack` reads the four fields of any 32-bit value, bits 31:29 ignored. -/
def Obligations.UnpackReadsTheFields : Prop :=
  ∀ (s : State) (v : Pixel),
    ∃ c : Channels, exec (.unpack v) s = .next { s with ret := .channels c }
      ∧ c.brightness.toNat = v.toNat / 2 ^ 24 % 32 ∧ c.red.toNat = v.toNat / 2 ^ 16 % 256
      ∧ c.green.toNat = v.toNat / 2 ^ 8 % 256 ∧ c.blue.toNat = v.toNat % 256

/-- R71: `pack` then `unpack` is the identity on validated operands, and `unpack` then `pack` is the identity exactly on the
values whose bits 31:29 are zero. -/
def Obligations.PackUnpackRoundTrip : Prop :=
  (∀ r g b br : Int, 0 ≤ r → r ≤ 255 → 0 ≤ g → g ≤ 255 → 0 ≤ b → b ≤ 255 → 0 ≤ br → br ≤ 31 →
    ((unpackPixel (packOperands r g b br)).red.toNat : Int) = r
    ∧ ((unpackPixel (packOperands r g b br)).green.toNat : Int) = g
    ∧ ((unpackPixel (packOperands r g b br)).blue.toNat : Int) = b
    ∧ ((unpackPixel (packOperands r g b br)).brightness.toNat : Int) = br)
  ∧ ∀ v : Pixel, packChannels (unpackPixel v) = v ↔ v.toNat < 2 ^ 29

/-- R72, R48: `encode` answers marker and brightness, blue, green, red, and changes nothing but the answer. -/
def Obligations.EncodeAnswersTheWireWord : Prop :=
  ∀ (s : State) (v : Pixel),
    ∃ b0 b1 b2 b3 : Byte, exec (.encode v) s = .next { s with ret := .bytes [b0, b1, b2, b3] }
      ∧ b0.toNat = 0xE0 + v.toNat / 2 ^ 24 % 32 ∧ b1.toNat = v.toNat % 256
      ∧ b2.toNat = v.toNat / 2 ^ 8 % 256 ∧ b3.toNat = v.toNat / 2 ^ 16 % 256

/-- R72: `encode` is injective on values whose bits 31:29 are zero. -/
def Obligations.EncodeIsInjective : Prop :=
  ∀ v w : Pixel, v.toNat < 2 ^ 29 → w.toNat < 2 ^ 29 → wireBytes v = wireBytes w → v = w

/-! Transmission operations. -/

/-- R80: `emit` is one event, changed level or not; it sets its line's level and changes no other. With a
driver that does not complete the call the engine is stuck: a fault of the model (log entry 12, the model's choice). -/
def Obligations.EmitSetsItsLine : Prop :=
  ∀ (s : State) (line : Line) (level : Bool),
    (s.driver.completes 1 = true →
      exec (.emit line level) s = .next
        { s with
          levelPwr := if line = .pwr then some level else s.levelPwr
          levelData := if line = .data then some level else s.levelData
          levelClk := if line = .clk then some level else s.levelClk
          history := s.history ++ [⟨line, level⟩]
          driver := s.driver.afterCalls 1 })
    ∧ (s.driver.completes 1 = false → exec (.emit line level) s = .fault .lineDriverHung)

/-- R82: a clock pulse drives CLK high, then low. -/
def Obligations.ClockPulseIsHighThenLow : Prop :=
  ∀ s : State, s.driver.completes 2 = true →
    exec .clockpulse s = .next
      { s with
        levelClk := some false
        history := s.history ++ [⟨.clk, true⟩, ⟨.clk, false⟩]
        driver := s.driver.afterCalls 2 }

/-- R83, R84, R35, R51: `writeByte` sends bit 7 first and bit 0 last, each as data, clock high, clock low. -/
def Obligations.WriteByteSendsBitSevenFirst : Prop :=
  ∀ (s : State) (b : Byte), s.driver.completes 24 = true →
    exec (.writebyte b) s = .next
      { s with
        levelData := some (b.getLsbD 0)
        levelClk := some false
        history := s.history ++
          [7, 6, 5, 4, 3, 2, 1, 0].flatMap fun k => [⟨.data, b.getLsbD k⟩, ⟨.clk, true⟩, ⟨.clk, false⟩]
        driver := s.driver.afterCalls 24 }

/-- R85: the preamble is `8N` zero bits, one zero byte per LED. -/
def Obligations.PreambleSendsOneZeroBytePerLight : Prop :=
  ∀ s : State, 1 ≤ s.N → s.driver.completes (24 * s.N) = true →
    exec .preamble s = .next
      { s with
        levelData := some false
        levelClk := some false
        history := s.history ++ (List.replicate (8 * s.N) [⟨.data, false⟩, ⟨.clk, true⟩, ⟨.clk, false⟩]).flatten
        driver := s.driver.afterCalls (24 * s.N) }

/-- R86: `data(p)` sends the four wire bytes of each pixel in buffer order, nothing between them; DATA is left at the last bit
sent, bit 0 of the last pixel's red. R86's `p` is the snapshot of `N` pixels; that DATA alone takes a list of any length is log
entry 30, the model's choice. -/
def Obligations.DataSendsTheWordsInBufferOrder : Prop :=
  ∀ (s : State) (p : List Pixel) (last : Pixel), p.getLast? = some last → s.driver.completes (96 * p.length) = true →
    exec (.data p) s = .next
      { s with
        levelData := some (last.getLsbD 16)
        levelClk := some false
        history := s.history ++
          ((p.flatMap fun v : Pixel =>
              [0xE0#8 ||| ((v >>> 24) &&& 0x1F#32).setWidth 8, (v &&& 0xFF#32).setWidth 8,
               ((v >>> 8) &&& 0xFF#32).setWidth 8, ((v >>> 16) &&& 0xFF#32).setWidth 8]).flatMap fun b : Byte =>
            [7, 6, 5, 4, 3, 2, 1, 0].flatMap fun k => [⟨.data, b.getLsbD k⟩, ⟨.clk, true⟩, ⟨.clk, false⟩])
        driver := s.driver.afterCalls (96 * p.length) }

/-- R87, R54: the latch is DATA low, then 36 clock pulses with no data change, whatever the level of DATA was. -/
def Obligations.LatchIsDataLowThenThirtySixPulses : Prop :=
  ∀ s : State, s.driver.completes 73 = true →
    exec .latch s = .next
      { s with
        levelData := some false
        levelClk := some false
        history := s.history ++ ⟨.data, false⟩ :: (List.replicate 36 [⟨.clk, true⟩, ⟨.clk, false⟩]).flatten
        driver := s.driver.afterCalls 73 }

/-- R88, R91: `render()` performs one frame: the buffer is not changed, no flag is changed, DATA and CLK end low and PWR is
left alone. -/
def Obligations.RenderPerformsOneFrame : Prop :=
  ∀ (s : State) (p : List Pixel), s.buf = some p → p.length = s.N → s.driver.completes (120 * s.N + 73) = true →
    exec .renderMicro s = .next
      { s with
        levelData := some false
        levelClk := some false
        history := s.history ++ (preambleTrace s.N ++ dataTrace p ++ latchTrace)
        driver := s.driver.afterCalls (120 * s.N + 73) }

/-- R93, R150, over every transmission operation: with a Line Driver that hangs before the operation's last call, the engine is
stuck: a fault of the model (log entry 12, the model's choice). The clause for DATA is over lists of any length (log entry 30,
the model's choice). -/
def Obligations.TransmissionHangsWithItsDriver : Prop :=
  ∀ (s : State) (k : Nat), s.driver = .hangsAfter k →
    (k < 1 → ∀ l v, exec (.emit l v) s = .fault .lineDriverHung)
    ∧ (k < 2 → exec .clockpulse s = .fault .lineDriverHung)
    ∧ (k < 24 → ∀ b, exec (.writebyte b) s = .fault .lineDriverHung)
    ∧ (k < 24 * s.N → exec .preamble s = .fault .lineDriverHung)
    ∧ (∀ p, k < 96 * p.length → exec (.data p) s = .fault .lineDriverHung)
    ∧ (k < 73 → exec .latch s = .fault .lineDriverHung)
    ∧ (∀ p, s.buf = some p → p.length = s.N → k < 120 * s.N + 73 → exec .renderMicro s = .fault .lineDriverHung)

/-! The frame. -/

/-- R89: the event of every number of a frame, and which LED, wire byte and bit position each data bit of it is. -/
def Obligations.FrameEventsByNumber : Prop :=
  ∀ (n : Nat) (p : List Pixel), p.length = n →
    (∀ e, (renderTrace n p)[e]? = frameEvent n p e)
    ∧ (∀ k, k < 8 * n → (frameBits n p)[k]? = some false)
    ∧ ∀ k v, 8 * n ≤ k → p[(k - 8 * n) / 32]? = some v →
        (frameBits n p)[k]? =
          (wireBytes v)[(k - 8 * n) % 32 / 8]?.map fun b => b.getLsbD (7 - k % 8)

/-- R52, R53: the size of a frame depends on `N` only: `120N + 73` events, `80N + 72` on CLK, `40N + 1` on DATA, none on
PWR, and `5N` bytes. -/
def Obligations.FrameSizeDependsOnTheLightCountOnly : Prop :=
  ∀ (n : Nat) (p : List Pixel), p.length = n →
    (renderTrace n p).length = 120 * n + 73 ∧ eventsOn .clk (renderTrace n p) = 80 * n + 72
    ∧ eventsOn .data (renderTrace n p) = 40 * n + 1 ∧ eventsOn .pwr (renderTrace n p) = 0
    ∧ (frameBytes n p).length = 5 * n

/-- R92: what a receiver that samples DATA at each rising edge reads of one frame is its bits and then 36 zeros, whatever DATA
was before; with CLK low before the frame, every `(CLK, 1)` event is a rising edge. -/
def Obligations.SampledStreamIsTheFrameBitsThenZeros : Prop :=
  ∀ (n : Nat) (p : List Pixel) (d : Option Bool),
    sampledStream d (renderTrace n p) = (frameBits n p ++ List.replicate 36 false).map some
    ∧ allRisingEdges (some false) (renderTrace n p) = true

/-- R94: following the sequence position from the first, each position's event is the one R89 numbers, the number goes up by
one, positions stay valid, and the last one is the frame's last event. -/
def Obligations.SequencePositionFollowsTheFrame : Prop :=
  ∀ (n : Nat) (p : List Pixel), 1 ≤ n → p.length = n →
    Position.first.valid n = true ∧ Position.first.number n = 0
    ∧ ∀ x : Position, x.valid n = true →
        (renderTrace n p)[x.number n]? = some (x.event p)
        ∧ (∀ y, x.next n = some y → y.valid n = true ∧ y.number n = x.number n + 1)
        ∧ (x.next n = none → x.number n + 1 = 120 * n + 73)

/-! Commands. -/

/-- R102, R103: INIT completes at every engine that accepts it (R100 (1)), in either lifecycle state, with three different pins
(R16): it binds the pins, allocates `N` zero cells, makes the encoder Initialized and
has `(PWR, 1)` and then one dark frame to send; nothing else changes until they are sent. That the first three are written at
acceptance is the model's choice (log entry 17, D15 allows it); that a second INIT runs again is decision D13; that the events
are pending and the levels still to be written is decision D14 (R19, R93; log entry 1). -/
def Obligations.InitBindsAllocatesAndSendsADarkFrame : Prop :=
  ∀ (s : State) (d c : Pin), s.pending = [] → s.fault = none → d ≠ c → d ≠ s.powerPin → c ≠ s.powerPin →
    exec (.init d c) s = .next
      { s with
        bindData := some d
        bindClock := some c
        buf := some (List.replicate s.N 0)
        lifecycle := .initialized
        pending := ⟨.pwr, true⟩ :: renderTrace s.N (List.replicate s.N 0) }

/-- R16, D7: with two of the three lines on one pin the model gives the run no meaning. -/
def Obligations.InitOnSharedPinsIsRefused : Prop :=
  ∀ (s : State) (d c : Pin), s.pending = [] → s.fault = none → (d = c ∨ d = s.powerPin ∨ c = s.powerPin) →
    exec (.init d c) s = .refused .pinsNotDistinct

/-- R104: SETLIGHT with operands in range packs and stores the one cell, responds OK, and emits nothing. -/
def Obligations.SetlightStoresOnePackedPixel : Prop :=
  ∀ (s : State) (p : List Pixel) (i r g b br : Int), s.pending = [] → s.fault = none → s.lifecycle = .initialized →
    s.buf = some p → p.length = s.N → 0 ≤ i → i < s.N → 0 ≤ r → r ≤ 255 → 0 ≤ g → g ≤ 255 → 0 ≤ b → b ≤ 255 →
    0 ≤ br → br ≤ 31 →
    ∃ (t : State) (v : Pixel), exec (.setlight i r g b br) s = .next t
      ∧ (v.toNat : Int) = br * 2 ^ 24 + r * 2 ^ 16 + g * 2 ^ 8 + b
      ∧ t = { s with buf := some (p.set i.toNat v), responses := s.responses ++ [.ok] }
      ∧ ∀ j, t.cell j = if j = i.toNat then some v else s.cell j

/-- R120 (raised by SETLIGHT alone, R104, R116): SETLIGHT with an operand out of range changes nothing and emits nothing, and
leaves the encoder idle and unfaulted; the response carries the index as presented and the first bound that fails in signature
order (R117, decision D10; log entry 15). -/
def Obligations.SetlightOutOfRangeChangesNothing : Prop :=
  ∀ (s : State) (i r g b br : Int), s.pending = [] → s.fault = none → s.lifecycle = .initialized →
    ¬((0 ≤ i ∧ i < s.N) ∧ (0 ≤ r ∧ r ≤ 255) ∧ (0 ≤ g ∧ g ≤ 255) ∧ (0 ≤ b ∧ b ≤ 255) ∧ (0 ≤ br ∧ br ≤ 31)) →
    ∃ bound : Bound,
      exec (.setlight i r g b br) s = .next { s with responses := s.responses ++ [.invalidArgument i bound] }
      ∧ match bound with
        | .index => ¬(0 ≤ i ∧ i < s.N)
        | .red => (0 ≤ i ∧ i < s.N) ∧ ¬(0 ≤ r ∧ r ≤ 255)
        | .green => (0 ≤ i ∧ i < s.N) ∧ (0 ≤ r ∧ r ≤ 255) ∧ ¬(0 ≤ g ∧ g ≤ 255)
        | .blue => (0 ≤ i ∧ i < s.N) ∧ (0 ≤ r ∧ r ≤ 255) ∧ (0 ≤ g ∧ g ≤ 255) ∧ ¬(0 ≤ b ∧ b ≤ 255)
        | .brightness => (0 ≤ i ∧ i < s.N) ∧ (0 ≤ r ∧ r ≤ 255) ∧ (0 ≤ g ∧ g ≤ 255) ∧ (0 ≤ b ∧ b ≤ 255)
            ∧ ¬(0 ≤ br ∧ br ≤ 31)

/-- R105: RENDER has one frame of the buffer to send, and changes nothing else. That the frame is pending at acceptance and the
levels R105 names are written as it is sent is R19 and R93, decision D14 (log entry 1). -/
def Obligations.RenderSendsTheBuffer : Prop :=
  ∀ (s : State) (p : List Pixel), s.pending = [] → s.fault = none → s.lifecycle = .initialized → s.buf = some p →
    exec .render s = .next { s with pending := preambleTrace s.N ++ dataTrace p ++ latchTrace }

/-- R106: RESETALL zeroes the buffer, then has one frame of the zeroed buffer to send, and changes nothing else. That the frame
is pending at acceptance and the levels R106 names are written as it is sent is R19 and R93, decision D14 (log entry 1). -/
def Obligations.ResetallZeroesThenSendsADarkFrame : Prop :=
  ∀ (s : State) (p : List Pixel), s.pending = [] → s.fault = none → s.lifecycle = .initialized → s.buf = some p →
    exec .resetall s = .next
      { s with
        buf := some (List.replicate p.length 0)
        pending := preambleTrace s.N ++ dataTrace (List.replicate p.length 0) ++ latchTrace }

/-- R118, R121, R122: SETLIGHT, RENDER and RESETALL before INIT set the fault flag, answer PreconditionViolation and do
nothing else, whatever SETLIGHT's operands (decisions D11, D12; log entry 16). -/
def Obligations.CommandsBeforeInitAreFatal : Prop :=
  ∀ s : State, s.pending = [] → s.fault = none → s.lifecycle = .uninitialized →
    ∀ i : Instr, ((∃ x r g b br, i = .setlight x r g b br) ∨ i = .render ∨ i = .resetall) →
      exec i s = .next
        { s with fault := some .preconditionViolation, responses := s.responses ++ [.preconditionViolation] }

/-- R134, R115: an error is raised before its instruction has written anything: over every instruction, a next state whose
new response is an error is the state before but for that response and, for a PreconditionViolation, the fault flag. -/
def Obligations.ErrorsArePrecise : Prop :=
  ∀ (i : Instr) (s t : State) (r : Response), exec i s = .next t → t.responses = s.responses ++ [r] → r ≠ .ok →
    (∃ x bound, r = .invalidArgument x bound ∧ t = { s with responses := s.responses ++ [r] })
    ∨ (r = .preconditionViolation ∧
        t = { s with fault := some .preconditionViolation, responses := s.responses ++ [r] })

/-- R58, R100 (4): an accepted command has exactly one response: it either responds at once with nothing left to send, or has
events to send and its response comes when they have been performed (`State.completed`, R19's big step). -/
def Obligations.OneResponsePerCommand : Prop :=
  ∀ (i : Instr) (s t : State), i.isCommand = true → s.pending = [] → s.fault = none → exec i s = .next t →
    ((t.pending = [] ∧ ∃ r, t.responses = s.responses ++ [r]) ∨ (t.pending ≠ [] ∧ t.responses = s.responses))
    ∧ ∃ r, t.completed.responses = s.responses ++ [r]

/-! Whole-machine rules: each over every state, every host and every Line Driver. -/

/-- The invariant holds of a new instance of any legal count, the reset state among them (R22). -/
def Obligations.InvariantHoldsAtReset : Prop :=
  (∀ n pin, 1 ≤ n → n ≤ Config.maxLights → Inv (State.new n pin)) ∧ Inv State.reset

/-- R13, R15, R16, R18, R20, R26, R129, R144: every step keeps the invariant. -/
def Obligations.EveryStepKeepsTheInvariant : Prop :=
  ∀ s t : State, Inv s → step s = .next t → Inv t

/-- R20, R18: the Pixel Buffer keeps its length and its zero top bits at every step, by itself: no other part of the invariant
is needed. -/
def Obligations.EveryStepKeepsTheBufferForm : Prop :=
  ∀ s t : State, Memory.wf s.N s.buf = true → step s = .next t → Memory.wf t.N t.buf = true

/-- R15, R13, R14: no step but a reset changes the light count, goes back to Uninitialized, or clears the fault flag; and while
the flag is set nothing is accepted, so no response is added but that of a command already in execution. -/
def Obligations.OnlyResetUndoesTheSticky : Prop :=
  ∀ s t : State, s.resetting = false → step s = .next t →
    t.N = s.N ∧ t.powerPin = s.powerPin
    ∧ (s.lifecycle = .initialized → t.lifecycle = .initialized)
    ∧ (s.fault.isSome = true →
        t.fault = s.fault ∧ t.buf = s.buf ∧ t.lifecycle = s.lifecycle ∧ t.bindData = s.bindData ∧ t.bindClock = s.bindClock
        ∧ (s.pending = [] → t = { s with host := t.host }))

/-- R8, R40, R93, R100 (4): a step performs at most one event, the head of what was pending, and what has been performed or
answered stays; levels change only by a performed event; a step gives at most one response, and gives it only when nothing is
left to perform. -/
def Obligations.AStepPerformsAtMostOneEvent : Prop :=
  ∀ s t : State, s.resetting = false → step s = .next t →
    ((t.history = s.history ∧ t.levelPwr = s.levelPwr ∧ t.levelData = s.levelData ∧ t.levelClk = s.levelClk)
      ∨ (∃ e, s.pending = e :: t.pending ∧ t.history = s.history ++ [e]
          ∧ (∀ l, t.level l = if e.line = l then some e.level else s.level l)
          ∧ t.buf = s.buf ∧ t.lifecycle = s.lifecycle ∧ t.fault = s.fault))
    ∧ (t.responses = s.responses ∨ (t.pending = [] ∧ ∃ r, t.responses = s.responses ++ [r]))

/-- R144: in any run of an instance without a reset, whatever the host issues and however the Line Driver behaves, the first
event ever performed is `(PWR, 1)`. -/
def Obligations.PowerEnableComesFirst : Prop :=
  ∀ (n : Nat) (pin : Pin) (moves : List HostMove) (driver : LineDriver) (k : Nat) (t : State),
    (∀ x, HostMove.reset x ∉ moves) →
    run k { State.new n pin with host := moves, driver := driver } = .next t →
    t.history = [] ∨ t.history.head? = some ⟨.pwr, true⟩

/-- R26, R91, R144, R152: from any state the invariant allows, a step that performs an event on DATA or CLK performs it with
PWR high, and a step that leaves an initialized encoder with nothing pending leaves PWR high and DATA and CLK low. -/
def Obligations.IdleLinesAndPoweredClocking : Prop :=
  ∀ s t : State, Inv s → step s = .next t →
    (∀ e, t.history = s.history ++ [e] → e.line ≠ .pwr → s.levelPwr = some true ∧ t.levelPwr = some true)
    ∧ (t.lifecycle = .initialized → t.pending = [] →
        t.levelPwr = some true ∧ t.levelData = some false ∧ t.levelClk = some false)

/-- R19, R155: what is pending is performed in as many steps as it has events, and leaves the machine where the big-step view
of the command in execution puts it. That the response takes no step of its own is log entry 2, the model's choice. -/
def Obligations.PendingEventsDrain : Prop :=
  ∀ s : State, s.host = [] → s.driver.completes s.pending.length = true →
    run s.pending.length s = .next s.completed

/-- R19, R107, R154: the small-step and the big-step view agree on every completed command. From an idle, initialized encoder
of `N` lights the command runs to completion in 1 step and one more per line event, and ends as the lifecycle table says. The count of steps
rests on log entries 1 and 2 (acceptance a step, the response in the step of the last event). -/
def Obligations.CommandsRunToCompletion : Prop :=
  ∀ (s : State) (p : List Pixel), s.pending = [] → s.fault = none → s.lifecycle = .initialized → s.buf = some p →
    p.length = s.N → s.driver = .ready →
    (∀ w, decode w = .render → s.host = [.command w] →
      run (1 + (120 * s.N + 73)) s = .next
        { s with
          host := [], levelData := some false, levelClk := some false
          history := s.history ++ renderTrace s.N p, responses := s.responses ++ [.ok] })
    ∧ (∀ w, decode w = .resetall → s.host = [.command w] →
      run (1 + (120 * s.N + 73)) s = .next
        { s with
          host := [], buf := some (List.replicate s.N 0), levelData := some false, levelClk := some false
          history := s.history ++ renderTrace s.N (List.replicate s.N 0), responses := s.responses ++ [.ok] })

/-- R23, R102, R103, R107: an INIT accepted by an idle, unfaulted encoder, in either lifecycle state, runs to completion in
`1 + (120N + 74)` steps and ends with PWR high, DATA and CLK low, `N` zero cells, the pins bound, and one OK response. The count
of steps rests on log entries 1 and 2 (acceptance a step, the response in the step of the last event). -/
def Obligations.InitRunsToCompletion : Prop :=
  ∀ (s : State) (w : CmdWord) (d c : Pin), s.pending = [] → s.fault = none → s.driver = .ready →
    decode w = .init d c → s.host = [.command w] → d ≠ c → d ≠ s.powerPin → c ≠ s.powerPin →
    run (1 + (120 * s.N + 74)) s = .next
      { s with
        host := [], lifecycle := .initialized, buf := some (List.replicate s.N 0)
        bindData := some d, bindClock := some c
        levelPwr := some true, levelData := some false, levelClk := some false
        history := s.history ++ ⟨.pwr, true⟩ :: renderTrace s.N (List.replicate s.N 0)
        responses := s.responses ++ [.ok] }

/-- R90: two renders with no SETLIGHT between send the same events twice, whatever the levels before. -/
def Obligations.TwoRendersSendTheSameEvents : Prop :=
  ∀ (s : State) (p : List Pixel) (w : CmdWord), s.pending = [] → s.fault = none → s.lifecycle = .initialized →
    s.buf = some p → p.length = s.N → s.driver = .ready → decode w = .render → s.host = [.command w, .command w] →
    ∃ (t : State) (frame : List LineEvent),
      run (2 * (1 + (120 * s.N + 73))) s = .next t ∧ frame.length = 120 * s.N + 73
      ∧ t.history = s.history ++ frame ++ frame ∧ t.buf = some p ∧ t.responses = s.responses ++ [.ok, .ok]

/-- R42, R156: a SETLIGHT is seen by the RENDER issued next: the frame sent is that of the buffer with the one cell replaced. -/
def Obligations.SetlightIsVisibleToTheNextRender : Prop :=
  ∀ (s : State) (p : List Pixel) (w v : CmdWord) (i r g b br : Int), s.pending = [] → s.fault = none →
    s.lifecycle = .initialized → s.buf = some p → p.length = s.N → s.driver = .ready →
    decode w = .setlight i r g b br → decode v = .render → s.host = [.command w, .command v] →
    0 ≤ i → i < s.N → 0 ≤ r → r ≤ 255 → 0 ≤ g → g ≤ 255 → 0 ≤ b → b ≤ 255 → 0 ≤ br → br ≤ 31 →
    ∃ (t : State) (x : Pixel), run (1 + (1 + (120 * s.N + 73))) s = .next t
      ∧ (x.toNat : Int) = br * 2 ^ 24 + r * 2 ^ 16 + g * 2 ^ 8 + b
      ∧ t.buf = some (p.set i.toNat x)
      ∧ t.history = s.history ++ renderTrace s.N (p.set i.toNat x)

/-- R62 (c): a host gets the same buffer and the same trace from RESETALL as from the `N` commands
`setLight(i, 0, 0, 0, 0)`, `i = 0 .. N-1`, followed by RENDER. -/
def Obligations.ResetallEqualsSetlightsThenRender : Prop :=
  ∀ (s : State) (p : List Pixel) (zero : Nat → CmdWord) (reset render : CmdWord), s.pending = [] → s.fault = none →
    s.lifecycle = .initialized → s.buf = some p → p.length = s.N → s.driver = .ready →
    (∀ j : Nat, j < s.N → decode (zero j) = .setlight (j : Int) 0 0 0 0) → decode reset = .resetall →
    decode render = .render →
    ∃ t u : State,
      run (1 + (120 * s.N + 73)) { s with host := [.command reset] } = .next t
      ∧ run (s.N + (1 + (120 * s.N + 73)))
          { s with host := (List.range s.N).map (fun j => .command (zero j)) ++ [.command render] } = .next u
      ∧ u.buf = t.buf ∧ u.history = t.history ∧ t.buf = some (List.replicate s.N 0)
      ∧ u = { t with responses := u.responses }
end

