-- ==== Sys2Proof/Laws/State.lean ====
section
/-! SUPPORT. What each state update does to each field: one lemma per field per update, so that no later proof unfolds a
record update. -/

namespace Sys2Proof.Machine

variable (s : State)

@[simp] theorem State.record_N (e : LineEvent) : (s.record e).N = s.N := rfl
@[simp] theorem State.record_lifecycle (e : LineEvent) : (s.record e).lifecycle = s.lifecycle := rfl
@[simp] theorem State.record_fault (e : LineEvent) : (s.record e).fault = s.fault := rfl
@[simp] theorem State.record_buf (e : LineEvent) : (s.record e).buf = s.buf := rfl
@[simp] theorem State.record_bindData (e : LineEvent) : (s.record e).bindData = s.bindData := rfl
@[simp] theorem State.record_bindClock (e : LineEvent) : (s.record e).bindClock = s.bindClock := rfl
@[simp] theorem State.record_levelPwr (e : LineEvent) : (s.record e).levelPwr = s.levelPwr := rfl
@[simp] theorem State.record_levelData (e : LineEvent) : (s.record e).levelData = s.levelData := rfl
@[simp] theorem State.record_levelClk (e : LineEvent) : (s.record e).levelClk = s.levelClk := rfl
@[simp] theorem State.record_pending (e : LineEvent) : (s.record e).pending = s.pending := rfl
@[simp] theorem State.record_powerPin (e : LineEvent) : (s.record e).powerPin = s.powerPin := rfl
@[simp] theorem State.record_host (e : LineEvent) : (s.record e).host = s.host := rfl
@[simp] theorem State.record_driver (e : LineEvent) : (s.record e).driver = s.driver := rfl
@[simp] theorem State.record_history (e : LineEvent) : (s.record e).history = s.history ++ [e] := rfl
@[simp] theorem State.record_responses (e : LineEvent) : (s.record e).responses = s.responses := rfl
@[simp] theorem State.record_ret (e : LineEvent) : (s.record e).ret = s.ret := rfl

@[simp] theorem State.respond_N (r : Response) : (s.respond r).N = s.N := rfl
@[simp] theorem State.respond_lifecycle (r : Response) : (s.respond r).lifecycle = s.lifecycle := rfl
@[simp] theorem State.respond_fault (r : Response) : (s.respond r).fault = s.fault := rfl
@[simp] theorem State.respond_buf (r : Response) : (s.respond r).buf = s.buf := rfl
@[simp] theorem State.respond_bindData (r : Response) : (s.respond r).bindData = s.bindData := rfl
@[simp] theorem State.respond_bindClock (r : Response) : (s.respond r).bindClock = s.bindClock := rfl
@[simp] theorem State.respond_levelPwr (r : Response) : (s.respond r).levelPwr = s.levelPwr := rfl
@[simp] theorem State.respond_levelData (r : Response) : (s.respond r).levelData = s.levelData := rfl
@[simp] theorem State.respond_levelClk (r : Response) : (s.respond r).levelClk = s.levelClk := rfl
@[simp] theorem State.respond_pending (r : Response) : (s.respond r).pending = s.pending := rfl
@[simp] theorem State.respond_powerPin (r : Response) : (s.respond r).powerPin = s.powerPin := rfl
@[simp] theorem State.respond_host (r : Response) : (s.respond r).host = s.host := rfl
@[simp] theorem State.respond_driver (r : Response) : (s.respond r).driver = s.driver := rfl
@[simp] theorem State.respond_history (r : Response) : (s.respond r).history = s.history := rfl
@[simp] theorem State.respond_responses (r : Response) : (s.respond r).responses = s.responses ++ [r] := rfl
@[simp] theorem State.respond_ret (r : Response) : (s.respond r).ret = s.ret := rfl

@[simp] theorem State.returning_N (v : Value) : (s.returning v).N = s.N := rfl
@[simp] theorem State.returning_lifecycle (v : Value) : (s.returning v).lifecycle = s.lifecycle := rfl
@[simp] theorem State.returning_fault (v : Value) : (s.returning v).fault = s.fault := rfl
@[simp] theorem State.returning_buf (v : Value) : (s.returning v).buf = s.buf := rfl
@[simp] theorem State.returning_bindData (v : Value) : (s.returning v).bindData = s.bindData := rfl
@[simp] theorem State.returning_bindClock (v : Value) : (s.returning v).bindClock = s.bindClock := rfl
@[simp] theorem State.returning_levelPwr (v : Value) : (s.returning v).levelPwr = s.levelPwr := rfl
@[simp] theorem State.returning_levelData (v : Value) : (s.returning v).levelData = s.levelData := rfl
@[simp] theorem State.returning_levelClk (v : Value) : (s.returning v).levelClk = s.levelClk := rfl
@[simp] theorem State.returning_pending (v : Value) : (s.returning v).pending = s.pending := rfl
@[simp] theorem State.returning_powerPin (v : Value) : (s.returning v).powerPin = s.powerPin := rfl
@[simp] theorem State.returning_host (v : Value) : (s.returning v).host = s.host := rfl
@[simp] theorem State.returning_driver (v : Value) : (s.returning v).driver = s.driver := rfl
@[simp] theorem State.returning_history (v : Value) : (s.returning v).history = s.history := rfl
@[simp] theorem State.returning_responses (v : Value) : (s.returning v).responses = s.responses := rfl
@[simp] theorem State.returning_ret (v : Value) : (s.returning v).ret = v := rfl

@[simp] theorem State.withPending_N (es : List LineEvent) : (s.withPending es).N = s.N := rfl
@[simp] theorem State.withPending_lifecycle (es : List LineEvent) : (s.withPending es).lifecycle = s.lifecycle := rfl
@[simp] theorem State.withPending_fault (es : List LineEvent) : (s.withPending es).fault = s.fault := rfl
@[simp] theorem State.withPending_buf (es : List LineEvent) : (s.withPending es).buf = s.buf := rfl
@[simp] theorem State.withPending_bindData (es : List LineEvent) : (s.withPending es).bindData = s.bindData := rfl
@[simp] theorem State.withPending_bindClock (es : List LineEvent) : (s.withPending es).bindClock = s.bindClock := rfl
@[simp] theorem State.withPending_levelPwr (es : List LineEvent) : (s.withPending es).levelPwr = s.levelPwr := rfl
@[simp] theorem State.withPending_levelData (es : List LineEvent) : (s.withPending es).levelData = s.levelData := rfl
@[simp] theorem State.withPending_levelClk (es : List LineEvent) : (s.withPending es).levelClk = s.levelClk := rfl
@[simp] theorem State.withPending_pending (es : List LineEvent) : (s.withPending es).pending = es := rfl
@[simp] theorem State.withPending_powerPin (es : List LineEvent) : (s.withPending es).powerPin = s.powerPin := rfl
@[simp] theorem State.withPending_host (es : List LineEvent) : (s.withPending es).host = s.host := rfl
@[simp] theorem State.withPending_driver (es : List LineEvent) : (s.withPending es).driver = s.driver := rfl
@[simp] theorem State.withPending_history (es : List LineEvent) : (s.withPending es).history = s.history := rfl
@[simp] theorem State.withPending_responses (es : List LineEvent) : (s.withPending es).responses = s.responses := rfl
@[simp] theorem State.withPending_ret (es : List LineEvent) : (s.withPending es).ret = s.ret := rfl

@[simp] theorem State.withBuf_N (p : List Pixel) : (s.withBuf p).N = s.N := rfl
@[simp] theorem State.withBuf_lifecycle (p : List Pixel) : (s.withBuf p).lifecycle = s.lifecycle := rfl
@[simp] theorem State.withBuf_fault (p : List Pixel) : (s.withBuf p).fault = s.fault := rfl
@[simp] theorem State.withBuf_buf (p : List Pixel) : (s.withBuf p).buf = some p := rfl
@[simp] theorem State.withBuf_bindData (p : List Pixel) : (s.withBuf p).bindData = s.bindData := rfl
@[simp] theorem State.withBuf_bindClock (p : List Pixel) : (s.withBuf p).bindClock = s.bindClock := rfl
@[simp] theorem State.withBuf_levelPwr (p : List Pixel) : (s.withBuf p).levelPwr = s.levelPwr := rfl
@[simp] theorem State.withBuf_levelData (p : List Pixel) : (s.withBuf p).levelData = s.levelData := rfl
@[simp] theorem State.withBuf_levelClk (p : List Pixel) : (s.withBuf p).levelClk = s.levelClk := rfl
@[simp] theorem State.withBuf_pending (p : List Pixel) : (s.withBuf p).pending = s.pending := rfl
@[simp] theorem State.withBuf_powerPin (p : List Pixel) : (s.withBuf p).powerPin = s.powerPin := rfl
@[simp] theorem State.withBuf_host (p : List Pixel) : (s.withBuf p).host = s.host := rfl
@[simp] theorem State.withBuf_driver (p : List Pixel) : (s.withBuf p).driver = s.driver := rfl
@[simp] theorem State.withBuf_history (p : List Pixel) : (s.withBuf p).history = s.history := rfl
@[simp] theorem State.withBuf_responses (p : List Pixel) : (s.withBuf p).responses = s.responses := rfl
@[simp] theorem State.withBuf_ret (p : List Pixel) : (s.withBuf p).ret = s.ret := rfl

@[simp] theorem State.withHost_N (moves : List HostMove) : (s.withHost moves).N = s.N := rfl
@[simp] theorem State.withHost_lifecycle (moves : List HostMove) : (s.withHost moves).lifecycle = s.lifecycle := rfl
@[simp] theorem State.withHost_fault (moves : List HostMove) : (s.withHost moves).fault = s.fault := rfl
@[simp] theorem State.withHost_buf (moves : List HostMove) : (s.withHost moves).buf = s.buf := rfl
@[simp] theorem State.withHost_bindData (moves : List HostMove) : (s.withHost moves).bindData = s.bindData := rfl
@[simp] theorem State.withHost_bindClock (moves : List HostMove) : (s.withHost moves).bindClock = s.bindClock := rfl
@[simp] theorem State.withHost_levelPwr (moves : List HostMove) : (s.withHost moves).levelPwr = s.levelPwr := rfl
@[simp] theorem State.withHost_levelData (moves : List HostMove) : (s.withHost moves).levelData = s.levelData := rfl
@[simp] theorem State.withHost_levelClk (moves : List HostMove) : (s.withHost moves).levelClk = s.levelClk := rfl
@[simp] theorem State.withHost_pending (moves : List HostMove) : (s.withHost moves).pending = s.pending := rfl
@[simp] theorem State.withHost_powerPin (moves : List HostMove) : (s.withHost moves).powerPin = s.powerPin := rfl
@[simp] theorem State.withHost_host (moves : List HostMove) : (s.withHost moves).host = moves := rfl
@[simp] theorem State.withHost_driver (moves : List HostMove) : (s.withHost moves).driver = s.driver := rfl
@[simp] theorem State.withHost_history (moves : List HostMove) : (s.withHost moves).history = s.history := rfl
@[simp] theorem State.withHost_responses (moves : List HostMove) : (s.withHost moves).responses = s.responses := rfl
@[simp] theorem State.withHost_ret (moves : List HostMove) : (s.withHost moves).ret = s.ret := rfl

@[simp] theorem State.setLevel_N (e : LineEvent) : (s.setLevel e).N = s.N := by
  obtain ⟨l, v⟩ := e; cases l <;> rfl
@[simp] theorem State.setLevel_lifecycle (e : LineEvent) : (s.setLevel e).lifecycle = s.lifecycle := by
  obtain ⟨l, v⟩ := e; cases l <;> rfl
@[simp] theorem State.setLevel_fault (e : LineEvent) : (s.setLevel e).fault = s.fault := by
  obtain ⟨l, v⟩ := e; cases l <;> rfl
@[simp] theorem State.setLevel_buf (e : LineEvent) : (s.setLevel e).buf = s.buf := by
  obtain ⟨l, v⟩ := e; cases l <;> rfl
@[simp] theorem State.setLevel_bindData (e : LineEvent) : (s.setLevel e).bindData = s.bindData := by
  obtain ⟨l, v⟩ := e; cases l <;> rfl
@[simp] theorem State.setLevel_bindClock (e : LineEvent) : (s.setLevel e).bindClock = s.bindClock := by
  obtain ⟨l, v⟩ := e; cases l <;> rfl
@[simp] theorem State.setLevel_levelPwr (e : LineEvent) :
    (s.setLevel e).levelPwr = if e.line = .pwr then some e.level else s.levelPwr := by
  obtain ⟨l, v⟩ := e; cases l <;> rfl
@[simp] theorem State.setLevel_levelData (e : LineEvent) :
    (s.setLevel e).levelData = if e.line = .data then some e.level else s.levelData := by
  obtain ⟨l, v⟩ := e; cases l <;> rfl
@[simp] theorem State.setLevel_levelClk (e : LineEvent) :
    (s.setLevel e).levelClk = if e.line = .clk then some e.level else s.levelClk := by
  obtain ⟨l, v⟩ := e; cases l <;> rfl
@[simp] theorem State.setLevel_pending (e : LineEvent) : (s.setLevel e).pending = s.pending := by
  obtain ⟨l, v⟩ := e; cases l <;> rfl
@[simp] theorem State.setLevel_powerPin (e : LineEvent) : (s.setLevel e).powerPin = s.powerPin := by
  obtain ⟨l, v⟩ := e; cases l <;> rfl
@[simp] theorem State.setLevel_host (e : LineEvent) : (s.setLevel e).host = s.host := by
  obtain ⟨l, v⟩ := e; cases l <;> rfl
@[simp] theorem State.setLevel_driver (e : LineEvent) : (s.setLevel e).driver = s.driver := by
  obtain ⟨l, v⟩ := e; cases l <;> rfl
@[simp] theorem State.setLevel_history (e : LineEvent) : (s.setLevel e).history = s.history := by
  obtain ⟨l, v⟩ := e; cases l <;> rfl
@[simp] theorem State.setLevel_responses (e : LineEvent) : (s.setLevel e).responses = s.responses := by
  obtain ⟨l, v⟩ := e; cases l <;> rfl
@[simp] theorem State.setLevel_ret (e : LineEvent) : (s.setLevel e).ret = s.ret := by
  obtain ⟨l, v⟩ := e; cases l <;> rfl

/-- A line event changes the level of its own line and of no other (R17). -/
theorem State.setLevel_level (e : LineEvent) (l : Line) :
    (s.setLevel e).level l = if e.line = l then some e.level else s.level l := by
  obtain ⟨k, v⟩ := e; cases k <;> cases l <;> rfl

/-- A write of one cell is a replacement of the whole buffer. -/
theorem State.writeCell_eq (p : List Pixel) (i : Int) (v : Pixel) :
    s.writeCell p i v = s.withBuf (p.set i.toNat v) := rfl

end Sys2Proof.Machine
end

