-- ==== Sys2Proof/Laws/Ops.lean ====
section
/-! SUPPORT. One lemma per shared operation: everything it can do, to be cited instead of unfolding it. -/

namespace Sys2Proof.Machine

/-! Levels and traces. -/

@[simp] theorem levelAfter_nil (l : Line) (v : Option Bool) : levelAfter l v [] = v := rfl

@[simp] theorem levelAfter_cons (l : Line) (v : Option Bool) (e : LineEvent) (es : List LineEvent) :
    levelAfter l v (e :: es) = levelAfter l (if e.line = l then some e.level else v) es := rfl

theorem levelAfter_append (l : Line) (v : Option Bool) (es fs : List LineEvent) :
    levelAfter l v (es ++ fs) = levelAfter l (levelAfter l v es) fs := by
  induction es generalizing v with
  | nil => rfl
  | cons e es ih => simp [ih]

theorem rep_length {α : Type} (n : Nat) (l : List α) : (rep n l).length = n * l.length := by
  induction n with
  | zero => simp [rep]
  | succ n ih => simp [rep, ih]; ring

theorem mem_rep {α : Type} {n : Nat} {l : List α} {x : α} (h : x ∈ rep n l) : x ∈ l := by
  induction n with
  | zero => simp [rep] at h
  | succ n ih =>
    rcases List.mem_append.mp h with h | h
    · exact h
    · exact ih h

@[simp] theorem writeByteTrace_length (b : Byte) : (writeByteTrace b).length = 24 := rfl

@[simp] theorem wordTrace_length (v : Pixel) : (wordTrace v).length = 96 := rfl

theorem latchTrace_length : latchTrace.length = 73 := by decide

theorem dataTrace_length (p : List Pixel) : (dataTrace p).length = 96 * p.length := by
  induction p with
  | nil => rfl
  | cons v p ih => simp only [dataTrace, List.flatMap_cons, List.length_append, List.length_cons] at *; rw [ih]; simp; ring

theorem preambleTrace_length (n : Nat) : (preambleTrace n).length = 24 * n := by
  simp [preambleTrace, rep_length, Format.preambleBytes]; ring

theorem renderTrace_length (n : Nat) (p : List Pixel) :
    (renderTrace n p).length = 24 * n + 96 * p.length + 73 := by
  simp [renderTrace, preambleTrace_length, dataTrace_length, latchTrace_length, Nat.add_assoc]

theorem renderTrace_ne_nil (n : Nat) (p : List Pixel) : renderTrace n p ≠ [] := fun h => by
  have := congrArg List.length h
  simp [renderTrace_length] at this

/-- The latch leaves DATA low whatever came before. -/
theorem levelAfter_data_latch (v : Option Bool) : levelAfter .data v latchTrace = some false := by
  cases v with
  | none => decide
  | some b => cases b <;> decide

/-- The latch leaves CLK low whatever came before. -/
theorem levelAfter_clk_latch (v : Option Bool) : levelAfter .clk v latchTrace = some false := by
  cases v with
  | none => decide
  | some b => cases b <;> decide

theorem levelAfter_data_render (v : Option Bool) (n : Nat) (p : List Pixel) :
    levelAfter .data v (renderTrace n p) = some false := by
  rw [renderTrace, levelAfter_append]; exact levelAfter_data_latch _

theorem levelAfter_clk_render (v : Option Bool) (n : Nat) (p : List Pixel) :
    levelAfter .clk v (renderTrace n p) = some false := by
  rw [renderTrace, levelAfter_append]; exact levelAfter_clk_latch _

theorem levelAfter_of_not_mem (l : Line) (v : Option Bool) (es : List LineEvent) (h : ∀ e ∈ es, e.line ≠ l) :
    levelAfter l v es = v := by
  induction es generalizing v with
  | nil => rfl
  | cons e es ih =>
    rw [levelAfter_cons, if_neg (h e (by simp))]
    exact ih v fun f hf => h f (by simp [hf])

theorem writeByteTrace_no_pwr (b : Byte) : ∀ e ∈ writeByteTrace b, e.line ≠ .pwr := by
  intro e he
  simp only [writeByteTrace, bitCell, List.mem_append, List.mem_cons, List.not_mem_nil, or_false] at he
  rcases e with ⟨l, v⟩
  cases l <;> simp_all

theorem clockPulseTrace_no_pwr : ∀ e ∈ clockPulseTrace, e.line ≠ .pwr := by decide

/-- A frame has no PWR event (R53). -/
theorem renderTrace_no_pwr (n : Nat) (p : List Pixel) : ∀ e ∈ renderTrace n p, e.line ≠ .pwr := by
  intro e he
  simp only [renderTrace, preambleTrace, dataTrace, wordTrace, latchTrace, List.mem_append, List.mem_flatMap,
    List.mem_cons] at he
  rcases he with (he | ⟨v, -, b, -, hb⟩) | he | he
  · exact writeByteTrace_no_pwr _ e (mem_rep he)
  · exact writeByteTrace_no_pwr b e hb
  · subst he; decide
  · exact clockPulseTrace_no_pwr e (mem_rep he)

theorem levelAfter_pwr_render (v : Option Bool) (n : Nat) (p : List Pixel) :
    levelAfter .pwr v (renderTrace n p) = v :=
  levelAfter_of_not_mem _ _ _ (renderTrace_no_pwr n p)

/-! The Line Driver and the performing of events. -/

theorem LineDriver.call_of_completes {d : LineDriver} {k : Nat} (h : d.completes (k + 1) = true) :
    d.call = some (d.afterCalls 1) ∧ (d.afterCalls 1).completes k = true
      ∧ (d.afterCalls 1).afterCalls k = d.afterCalls (k + 1) := by
  cases d with
  | ready => exact ⟨rfl, rfl, rfl⟩
  | hangsAfter m =>
    cases m with
    | zero => simp [completes] at h
    | succ m => simp [completes, call, afterCalls] at *; omega

theorem LineDriver.afterCalls_zero (d : LineDriver) : d.afterCalls 0 = d := by
  cases d <;> rfl

theorem LineDriver.completes_zero (d : LineDriver) : d.completes 0 = true := by
  cases d <;> simp [LineDriver.completes]

/-- A call either is completed, and then its event is performed, or hangs. -/
theorem perform_cases (e : LineEvent) (s : State) :
    (∃ d, s.driver.call = some d ∧ perform e s = .next (({ s with driver := d }.setLevel e).record e))
      ∨ (s.driver.call = none ∧ perform e s = .fault .lineDriverHung) := by
  unfold perform
  cases h : s.driver.call with
  | none => exact .inr ⟨rfl, rfl⟩
  | some d => exact .inl ⟨d, rfl, rfl⟩

theorem perform_completes (e : LineEvent) (s : State) (h : s.driver.completes 1 = true) :
    perform e s = .next (s.performed [e]) := by
  obtain ⟨hc, -, -⟩ := LineDriver.call_of_completes h
  rcases perform_cases e s with ⟨d, hd, hp⟩ | ⟨hn, -⟩
  · rw [hp, State.performed]
    rw [hc] at hd
    obtain ⟨l, v⟩ := e
    cases hd
    cases l <;> rfl
  · rw [hc] at hn; cases hn

theorem State.performed_nil (s : State) : s.performed [] = s := by
  cases s; simp [State.performed, LineDriver.afterCalls_zero]

theorem State.performed_cons (s : State) (e : LineEvent) (es : List LineEvent) (h : s.driver.completes (es.length + 1) = true) :
    (s.performed [e]).performed es = s.performed (e :: es) := by
  obtain ⟨-, -, ha⟩ := LineDriver.call_of_completes h
  simp [State.performed, ha]

/-- A driver that completes the calls lets a whole trace be performed. -/
theorem performAll_completes (es : List LineEvent) (s : State) (h : s.driver.completes es.length = true) :
    performAll es s = .next (s.performed es) := by
  induction es generalizing s with
  | nil => rw [State.performed_nil]; rfl
  | cons e es ih =>
    obtain ⟨-, hk, -⟩ := LineDriver.call_of_completes h
    have h1 : s.driver.completes 1 = true := by
      cases hd : s.driver with
      | ready => rfl
      | hangsAfter m => rw [hd] at h; simp [LineDriver.completes] at *; omega
    simp only [performAll, perform_completes e s h1]
    rw [ih (s.performed [e]) hk, State.performed_cons s e es h]

/-- A driver that does not complete them hangs the trace. -/
theorem performAll_hangs (es : List LineEvent) (s : State) (h : s.driver.completes es.length = false) :
    performAll es s = .fault .lineDriverHung := by
  induction es generalizing s with
  | nil => rw [List.length_nil, LineDriver.completes_zero] at h; cases h
  | cons e es ih =>
    rcases perform_cases e s with ⟨d, hd, hp⟩ | ⟨-, hp⟩
    · simp only [performAll, hp]
      apply ih
      cases hs : s.driver with
      | ready => rw [hs] at h; cases h
      | hangsAfter m =>
        rw [hs] at h hd
        cases m with
        | zero => cases hd
        | succ m => cases hd; simpa [LineDriver.completes] using h
    · simp only [performAll, hp]

/-! Acceptance, lifecycle, buffer. -/

theorem State.ready_iff (s : State) : s.ready = true ↔ s.pending = [] ∧ s.fault = none := by
  simp [State.ready]

theorem whenAccepted_ready {s : State} {body : Result} (h : s.ready = true) : whenAccepted s body = body := by
  simp [whenAccepted, h]

/-- A command that is not accepted leaves the state as it was (R107, last row). -/
theorem whenAccepted_not_ready {s : State} {body : Result} (h : s.ready = false) : whenAccepted s body = .next s := by
  simp [whenAccepted, h]

theorem whenInitialized_initialized {s : State} {body : Result} (h : s.lifecycle = .initialized) :
    whenInitialized s body = body := by
  simp [whenInitialized, h]

theorem whenInitialized_uninitialized {s : State} {body : Result} (h : s.lifecycle = .uninitialized) :
    whenInitialized s body = raisePreconditionViolation s := by
  simp [whenInitialized, h]

theorem withBuffer_some {s : State} {p : List Pixel} {f : List Pixel → Result} (h : s.buf = some p) :
    withBuffer s f = f p := by
  simp [withBuffer, h]

theorem withBuffer_next {s t : State} {f : List Pixel → Result} (h : withBuffer s f = .next t) :
    ∃ p, s.buf = some p ∧ f p = .next t := by
  unfold withBuffer at h
  split at h
  · cases h
  · exact ⟨_, ‹_›, h⟩

@[simp] theorem clearCells_length (p : List Pixel) : (clearCells p).length = p.length := by simp [clearCells]

theorem clearCells_eq (p : List Pixel) : clearCells p = List.replicate p.length 0 := by
  simp [clearCells, List.map_const']

/-! The validator and the packed pixel. -/

theorem inRange_iff (lo hi x : Int) : inRange lo hi x = true ↔ lo ≤ x ∧ x ≤ hi := by simp [inRange]

/-- `validate` succeeds exactly on the source's set of operands (R68). -/
theorem firstFailing_eq_none (n : Nat) (i r g b br : Int) :
    firstFailing n i r g b br = none ↔
      (0 ≤ i ∧ i < n) ∧ (0 ≤ r ∧ r ≤ 255) ∧ (0 ≤ g ∧ g ≤ 255) ∧ (0 ≤ b ∧ b ≤ 255) ∧ (0 ≤ br ∧ br ≤ 31) := by
  unfold firstFailing inRange Format.channelMax Format.brightnessMax
  constructor
  · intro h
    repeat' (split at h; · cases h)
    simp_all
  · rintro ⟨⟨_, _⟩, ⟨_, _⟩, ⟨_, _⟩, ⟨_, _⟩, _, _⟩
    have : i ≤ (n : Int) - 1 := by omega
    simp [*]

/-- Bits 31:29 of a packed pixel are zero (R47). -/
theorem packChannels_top (c : Channels) : (packChannels c).extractLsb' 29 3 = 0#3 := by
  unfold packChannels Format.brightnessPos Format.redPos Format.greenPos Format.bluePos
  ext i hi
  simp only [BitVec.getElem_extractLsb', BitVec.getLsbD_or, BitVec.getLsbD_shiftLeft, BitVec.getLsbD_setWidth]
  have h1 := BitVec.getLsbD_of_ge c.brightness (29 + i - 24) (by omega)
  have h2 := BitVec.getLsbD_of_ge c.red (29 + i - 16) (by omega)
  have h3 := BitVec.getLsbD_of_ge c.green (29 + i - 8) (by omega)
  simp [h1, h2, h3]
  exact fun _ => BitVec.getLsbD_of_ge c.blue (29 + i) (by omega)

/-! The Pixel Buffer keeps its canonical form. -/

theorem Memory.wf_some (n : Nat) (p : List Pixel) :
    Memory.wf n (some p) = true ↔ p.length = n ∧ ∀ v ∈ p, v.extractLsb' 29 3 = 0#3 := by
  simp [Memory.wf]

/-- Writing a value whose bits 31:29 are zero keeps the form; `set` leaves that condition to its caller (R65). -/
theorem Memory.wf_set_of_top {n : Nat} {p : List Pixel} (h : Memory.wf n (some p) = true) (i : Nat) {v : Pixel}
    (hv : v.extractLsb' 29 3 = 0#3) : Memory.wf n (some (p.set i v)) = true := by
  rw [Memory.wf_some] at *
  refine ⟨by simp [h.1], fun x hx => ?_⟩
  rcases List.mem_or_eq_of_mem_set hx with hx | rfl
  · exact h.2 x hx
  · exact hv

theorem Memory.wf_set {n : Nat} {p : List Pixel} (h : Memory.wf n (some p) = true) (i : Nat) (c : Channels) :
    Memory.wf n (some (p.set i (packChannels c))) = true :=
  Memory.wf_set_of_top h i (packChannels_top c)

theorem Memory.wf_replicate (n : Nat) : Memory.wf n (some (List.replicate n 0)) = true := by
  rw [Memory.wf_some]
  refine ⟨by simp, fun v hv => ?_⟩
  rw [List.eq_of_mem_replicate hv]
  rfl

theorem Memory.wf_clearCells {n : Nat} {p : List Pixel} (h : Memory.wf n (some p) = true) :
    Memory.wf n (some (clearCells p)) = true := by
  rw [clearCells_eq, ((Memory.wf_some n p).mp h).1]
  exact Memory.wf_replicate n

theorem Memory.wf_freshCells (n : Nat) : Memory.wf n (some (clearCells (freshCells n))) = true :=
  Memory.wf_clearCells (Memory.wf_replicate n)

/-- The memory of a new instance, and so of `State.reset`, has the canonical form. -/
theorem Memory.wf_new (n : Nat) (pin : Pin) : Memory.wf (State.new n pin).N (State.new n pin).buf = true := rfl

end Sys2Proof.Machine
end

