-- ==== Sys2Proof/Laws/PerInstr.lean ====
section
/-! SUPPORT. The family CommandCodec: for every well-formed instruction, either it is a command, and the port's decoder gives
it back from its encoding with every operand, or it is a micro-operation and has no encoding (30_encoding.md R56, R63). -/

/-- What the family says of one instruction. -/
def Sys2Proof.Laws.CommandCodec.Statement (i : Sys2Proof.Instr) : Prop :=
  i.wellFormed = true →
    match Sys2Proof.encode i with
    | some w => i.isCommand = true ∧ Sys2Proof.decode w = i
    | none => i.isCommand = false

/-- A signed operand that fits its port is read back from it (R57). -/
theorem Sys2Proof.toInt_ofInt_of_fitsPort {x : Int} (h : Sys2Proof.fitsPort x = true) : (BitVec.ofInt 32 x).toInt = x := by
  simp only [Sys2Proof.fitsPort, Bool.and_eq_true, decide_eq_true_eq] at h
  rw [BitVec.toInt_ofInt]
  simp only [Int.bmod]
  omega

/-- Whatever the free value, `rsp_bound` carries no code above 4 where it is not meaningful (R59). -/
theorem Sys2Proof.boundNotMeaningful_lt (k : Nat) : (Sys2Proof.boundNotMeaningful k).toNat < 5 := by
  have h := (Sys2Proof.Config.rspBoundNotMeaningful k).isLt
  simp only [Sys2Proof.boundNotMeaningful, BitVec.toNat_ofNat]
  omega

theorem Sys2Proof.Laws.CommandCodec.init (d c : Sys2Proof.Pin) : Statement (.init d c) :=
  fun _ => ⟨rfl, rfl⟩

theorem Sys2Proof.Laws.CommandCodec.setlight (i r g b br : Int) : Statement (.setlight i r g b br) := by
  intro h
  simp only [Sys2Proof.Instr.wellFormed, Bool.and_eq_true] at h
  obtain ⟨⟨⟨⟨hi, hr⟩, hg⟩, hb⟩, hbr⟩ := h
  refine ⟨rfl, ?_⟩
  simp [Sys2Proof.decode, -BitVec.toInt_ofInt, toInt_ofInt_of_fitsPort, hi, hr, hg, hb, hbr]

theorem Sys2Proof.Laws.CommandCodec.render : Statement .render := fun _ => ⟨rfl, rfl⟩

theorem Sys2Proof.Laws.CommandCodec.resetall : Statement .resetall := fun _ => ⟨rfl, rfl⟩

theorem Sys2Proof.Laws.CommandCodec.bufSet (i : Int) (v : Sys2Proof.Pixel) : Statement (.bufSet i v) := fun _ => rfl

theorem Sys2Proof.Laws.CommandCodec.bufAll : Statement .bufAll := fun _ => rfl

theorem Sys2Proof.Laws.CommandCodec.bufResetall : Statement .bufResetall := fun _ => rfl

theorem Sys2Proof.Laws.CommandCodec.validate (i r g b br : Int) : Statement (.validate i r g b br) := fun _ => rfl

theorem Sys2Proof.Laws.CommandCodec.pack (r g b : BitVec 8) (br : BitVec 5) : Statement (.pack r g b br) := fun _ => rfl

theorem Sys2Proof.Laws.CommandCodec.unpack (v : Sys2Proof.Pixel) : Statement (.unpack v) := fun _ => rfl

theorem Sys2Proof.Laws.CommandCodec.encode (v : Sys2Proof.Pixel) : Statement (.encode v) := fun _ => rfl

theorem Sys2Proof.Laws.CommandCodec.emit (l : Sys2Proof.Line) (v : Bool) : Statement (.emit l v) := fun _ => rfl

theorem Sys2Proof.Laws.CommandCodec.clockpulse : Statement .clockpulse := fun _ => rfl

theorem Sys2Proof.Laws.CommandCodec.writebyte (b : Sys2Proof.Byte) : Statement (.writebyte b) := fun _ => rfl

theorem Sys2Proof.Laws.CommandCodec.preamble : Statement .preamble := fun _ => rfl

theorem Sys2Proof.Laws.CommandCodec.data (p : List Sys2Proof.Pixel) : Statement (.data p) := fun _ => rfl

theorem Sys2Proof.Laws.CommandCodec.latch : Statement .latch := fun _ => rfl

theorem Sys2Proof.Laws.CommandCodec.renderMicro : Statement .renderMicro := fun _ => rfl
end

