-- ==== Sys2Proof/Laws/Step.lean ====
section
/-! SUPPORT. What the engine's moves, each command and a step can do, said once. -/

namespace Sys2Proof.Machine

/-- A Write step that completes (R93 (2), (3)). -/
theorem writeStep_next {e : LineEvent} {rest : List LineEvent} {s t : State} (h : writeStep e rest s = .next t) :
    ∃ d, s.driver.call = some d ∧
      t = if rest.isEmpty then (((({ s with driver := d }.setLevel e).record e).withPending rest).respond .ok)
        else ((({ s with driver := d }.setLevel e).record e).withPending rest) := by
  rcases perform_cases e s with ⟨d, hd, hp⟩ | ⟨-, hp⟩
  · refine ⟨d, hd, ?_⟩
    simp only [writeStep, hp] at h
    cases h
    split <;> rfl
  · simp only [writeStep, hp] at h
    cases h

/-- What the engine can do of itself. -/
theorem advance_cases {s t : State} (h : advance s = .next t) :
    (s.pending = [] ∧ t = s) ∨ (∃ e rest, s.pending = e :: rest ∧ writeStep e rest s = .next t) := by
  unfold advance at h
  split at h
  · cases h; exact .inl ⟨‹_›, rfl⟩
  · exact .inr ⟨_, _, ‹_›, h⟩

/-- Everything a step that answers a next state can have done. -/
theorem step_cases {s t : State} (h : step s = .next t) :
    (∃ n rest, s.host = .reset n :: rest ∧ legalLightCount n = true ∧ t = (s.withHost rest).renewed n.toNat)
      ∨ (∃ w rest, s.host = .command w :: rest ∧ s.ready = true ∧ exec (decode w) (s.withHost rest) = .next t)
      ∨ (∃ moves, (s.host = moves ∨ s.host = .wait :: moves) ∧ advance (s.withHost moves) = .next t) := by
  unfold step at h
  split at h
  · exact .inr (.inr ⟨[], .inl ‹_›, by rw [← h]; congr; cases s; simp_all⟩)
  · exact .inr (.inr ⟨_, .inr ‹_›, h⟩)
  · next n rest hh =>
    unfold resetMove at h
    split at h
    · cases h; exact .inl ⟨n, rest, hh, ‹_›, rfl⟩
    · cases h
  · next w rest hh =>
    unfold acceptOrAdvance at h
    split at h
    · exact .inr (.inl ⟨w, rest, hh, ‹_›, h⟩)
    · exact .inr (.inr ⟨.command w :: rest, .inl hh, by rw [← h]; congr; cases s; simp_all⟩)

/-- Everything BUF_SET can do (R31, R65, R119). -/
theorem execBufSet_cases (i : Int) (v : Pixel) (s : State) :
    (s.hasCell i = false ∧ execBufSet i v s = raisePreconditionViolation s)
      ∨ (s.hasCell i = true ∧ s.buf = none ∧ execBufSet i v s = .fault .bufferUnallocated)
      ∨ (s.hasCell i = true ∧ ∃ p, s.buf = some p ∧ execBufSet i v s = .next (s.writeCell p i v)) := by
  unfold execBufSet
  cases hi : s.hasCell i with
  | false => exact .inl ⟨rfl, rfl⟩
  | true =>
    cases hb : s.buf with
    | none => exact .inr (.inl ⟨rfl, rfl, by simp [withBuffer, hb]⟩)
    | some p => exact .inr (.inr ⟨rfl, p, rfl, by simp [withBuffer, hb]⟩)

/-- INIT at an engine that is ready (R102). -/
theorem execInit_next {d c : Pin} {s t : State} (hr : s.ready = true) (h : execInit d c s = .next t) :
    pinsDistinct d c s.powerPin = true ∧
      t = { s with bindData := some d, bindClock := some c, buf := some (List.replicate s.N 0), lifecycle := .initialized,
                   pending := initTrace s.N } := by
  rw [execInit, whenAccepted_ready hr] at h
  split at h
  · cases h; exact ⟨‹_›, by simp [clearCells_eq, freshCells]⟩
  · cases h

/-- SETLIGHT at an engine that is ready (R104). -/
theorem execSetlight_next {i r g b br : Int} {s t : State} (hr : s.ready = true) (h : execSetlight i r g b br s = .next t) :
    (s.lifecycle = .uninitialized ∧ raisePreconditionViolation s = .next t)
      ∨ (s.lifecycle = .initialized ∧ ∃ bound, firstFailing s.N i r g b br = some bound ∧
          t = s.respond (.invalidArgument i bound))
      ∨ (s.lifecycle = .initialized ∧ firstFailing s.N i r g b br = none ∧ ∃ p, s.buf = some p ∧
          t = (s.withBuf (p.set i.toNat (packOperands r g b br))).respond .ok) := by
  rw [execSetlight, whenAccepted_ready hr] at h
  cases hl : s.lifecycle with
  | uninitialized => rw [whenInitialized_uninitialized hl] at h; exact .inl ⟨rfl, h⟩
  | initialized =>
    rw [whenInitialized_initialized hl] at h
    split at h
    · cases h; exact .inr (.inl ⟨rfl, _, ‹_›, rfl⟩)
    · obtain ⟨p, hp, hn⟩ := withBuffer_next h
      cases hn
      exact .inr (.inr ⟨rfl, ‹_›, p, hp, rfl⟩)

/-- RENDER at an engine that is ready (R105). -/
theorem execRender_next {s t : State} (hr : s.ready = true) (h : execRender s = .next t) :
    (s.lifecycle = .uninitialized ∧ raisePreconditionViolation s = .next t)
      ∨ (s.lifecycle = .initialized ∧ ∃ p, s.buf = some p ∧ t = s.withPending (renderTrace s.N p)) := by
  rw [execRender, whenAccepted_ready hr] at h
  cases hl : s.lifecycle with
  | uninitialized => rw [whenInitialized_uninitialized hl] at h; exact .inl ⟨rfl, h⟩
  | initialized =>
    rw [whenInitialized_initialized hl] at h
    obtain ⟨p, hp, hn⟩ := withBuffer_next h
    cases hn
    exact .inr ⟨rfl, p, hp, rfl⟩

/-- RESETALL at an engine that is ready (R106). -/
theorem execResetall_next {s t : State} (hr : s.ready = true) (h : execResetall s = .next t) :
    (s.lifecycle = .uninitialized ∧ raisePreconditionViolation s = .next t)
      ∨ (s.lifecycle = .initialized ∧ ∃ p, s.buf = some p ∧
          t = (s.withBuf (clearCells p)).withPending (renderTrace s.N (clearCells p))) := by
  rw [execResetall, whenAccepted_ready hr] at h
  cases hl : s.lifecycle with
  | uninitialized => rw [whenInitialized_uninitialized hl] at h; exact .inl ⟨rfl, h⟩
  | initialized =>
    rw [whenInitialized_initialized hl] at h
    obtain ⟨p, hp, hn⟩ := withBuffer_next h
    cases hn
    exact .inr ⟨rfl, p, hp, rfl⟩

/-- What the decoder gives is one of the four commands (R63). -/
theorem decode_cases (w : CmdWord) :
    (∃ d c, decode w = .init d c) ∨ (∃ i r g b br, decode w = .setlight i r g b br)
      ∨ decode w = .render ∨ decode w = .resetall := by
  unfold decode
  split
  · exact .inl ⟨_, _, rfl⟩
  · split
    · exact .inr (.inl ⟨_, _, _, _, _, rfl⟩)
    · split
      · exact .inr (.inr (.inl rfl))
      · exact .inr (.inr (.inr rfl))

/-! Runs. -/

/-- Waiting leaves the question to the moves after it (R110). -/
theorem commandLeft_replicate_wait (k : Nat) (moves : List HostMove) :
    commandLeft (List.replicate k .wait ++ moves) = commandLeft moves := by
  induction k with
  | zero => rfl
  | succ k ih => exact ih

theorem run_one (s : State) : run 1 s = step s := by
  simp only [run]
  cases step s <;> rfl

/-- A run of `a + b` steps is `b` steps after `a`. -/
theorem run_add (a b : Nat) (s : State) :
    run (a + b) s = match run a s with | .next t => run b t | .fault f => .fault f | .refused r => .refused r := by
  induction a generalizing s with
  | zero => simp [run]
  | succ a ih =>
    rw [show a + 1 + b = (a + b) + 1 by ring]
    simp only [run]
    cases step s with
    | next t => exact ih t
    | fault f => rfl
    | refused r => rfl

/-- The host's `Core.run` of this machine is `run`. -/
theorem core_run_eq (k : Nat) (s : State) : Sys2Proof.core.run k s = run k s := by
  induction k generalizing s with
  | zero => rfl
  | succ k ih =>
    simp only [Host.Core.run, run]
    have h : Sys2Proof.core.step s = step s := rfl
    rw [h]
    cases step s with
    | next t => exact ih t
    | fault f => rfl
    | refused r => rfl

end Sys2Proof.Machine
end

