-- ==== Sys2Proof/Tests/Slice0.lean ====
section
/-! SUPPORT. Tests of one step or one operation, with expected results taken from spec/95_test_vectors.md and the rules'
own examples, and the witnesses that meet the hypotheses of the statements. -/

namespace Sys2Proof.Tests

open Sys2Proof.Machine

/-! Helpers. -/

/-- The next state, where there is one. -/
def nextOf : Result → Option State
  | .next t => some t
  | .fault _ => none
  | .refused _ => none

/-- The fault, where there is one. -/
def faultOf : Result → Option Fault
  | .next _ => none
  | .fault f => some f
  | .refused _ => none

/-- The refusal, where there is one. -/
def refusalOf : Result → Option Refusal
  | .next _ => none
  | .fault _ => none
  | .refused r => some r

/-- A new instance. -/
def fresh (n : Nat) : State :=
  State.new n 99

/-- An initialized, idle encoder whose buffer holds `p`. -/
def up (p : List Pixel) : State :=
  { State.new p.length 99 with
    lifecycle := .initialized, buf := some p, bindData := some 5, bindClock := some 6
    levelPwr := some true, levelData := some false, levelClk := some false }

/-- A faulted encoder. -/
def dead : State :=
  { fresh 2 with fault := some .preconditionViolation }

/-- The buffer of V9 between the two SETLIGHTs. -/
def two : State :=
  up [0, 0x04010203]

/-- The buffer after a step. -/
def bufOf (r : Result) : Option (List Pixel) :=
  (nextOf r).bind State.buf

/-- What a micro-operation returned. -/
def retOf (r : Result) : Option Value :=
  (nextOf r).map State.ret

/-- The responses after a step. -/
def rspOf (r : Result) : Option (List Response) :=
  (nextOf r).map State.responses

/-- The events performed by a step. -/
def traceOf (r : Result) : Option (List LineEvent) :=
  (nextOf r).map State.history

/-- A trace written as in spec/95_test_vectors.md: bit cells `d0^v`, `d1^v`. -/
def cells (bits : List Nat) : List LineEvent :=
  bits.flatMap fun b => [⟨.data, b == 1⟩, ⟨.clk, true⟩, ⟨.clk, false⟩]

/-- `d0` and 36 pulses. -/
def latchText : List LineEvent :=
  ⟨.data, false⟩ :: (List.replicate 36 [⟨.clk, true⟩, ⟨.clk, false⟩]).flatten

/-! Well-formedness: each check refuses an ill-formed term (R55, D4: 32-bit signed operands). -/

theorem test_wf_setlight_ok : (Instr.setlight (-2147483648) 2147483647 0 300 40).wellFormed = true := by decide

theorem test_wf_setlight_index : (Instr.setlight 2147483648 0 0 0 0).wellFormed = false := by decide

theorem test_wf_setlight_red : (Instr.setlight 0 (-2147483649) 0 0 0).wellFormed = false := by decide

theorem test_wf_setlight_green : (Instr.setlight 0 0 2147483648 0 0).wellFormed = false := by decide

theorem test_wf_setlight_blue : (Instr.setlight 0 0 0 2147483648 0).wellFormed = false := by decide

theorem test_wf_setlight_brightness : (Instr.setlight 0 0 0 0 2147483648).wellFormed = false := by decide

theorem test_wf_validate_index : (Instr.validate (-2147483649) 0 0 0 0).wellFormed = false := by decide

theorem test_wf_validate_red : (Instr.validate 0 2147483648 0 0 0).wellFormed = false := by decide

theorem test_wf_validate_green : (Instr.validate 0 0 2147483648 0 0).wellFormed = false := by decide

theorem test_wf_validate_blue : (Instr.validate 0 0 0 2147483648 0).wellFormed = false := by decide

theorem test_wf_validate_brightness : (Instr.validate 0 0 0 0 (-2147483649)).wellFormed = false := by decide

theorem test_wf_bufSet_index : (Instr.bufSet 2147483648 0).wellFormed = false := by decide

theorem test_wf_data_empty : (Instr.data []).wellFormed = false := by decide

/-- A buffer longer than MAXN is no snapshot of an instance. -/
theorem test_wf_data_too_long (p : List Pixel) (h : p.length = 2147483648) : (Instr.data p).wellFormed = false := by
  simp only [Instr.wellFormed, h]
  rfl

/-! Decoding: transfers written out from R56 (spec/95, programs P1, P3, P5). -/

/-- P1 row 1: `init(10, 11)`. -/
theorem test_decode_init : decode ⟨0b00, 0x0000000A, 0x0000000B, 0, 0, 0⟩ = .init 10 11 := by decide

/-- P3 row 5: `setLight(-1, 300, 0, 0, 40)`. -/
theorem test_decode_setlight :
    decode ⟨0b01, 0xFFFFFFFF, 0x0000012C, 0, 0, 0x00000028⟩ = .setlight (-1) 300 0 0 40 := by decide

/-- P5 row 3: `setLight(1, 17, 34, 51, 3)`: each operand in its own port. -/
theorem test_decode_setlight_ports :
    decode ⟨0b01, 0x00000001, 0x00000011, 0x00000022, 0x00000033, 0x00000003⟩ = .setlight 1 17 34 51 3 := by decide

/-- P1 row 3: the operand ports of RENDER carry any value. -/
theorem test_decode_render : decode ⟨0b10, 0xFFFFFFFF, 1, 2, 3, 4⟩ = .render := by decide

/-- P5 row 5. -/
theorem test_decode_resetall : decode ⟨0b11, 4, 3, 2, 1, 0xFFFFFFFF⟩ = .resetall := by decide

/-- The four codes of `cmd_op` in bits 1:0 (the table's match and mask 0x3), operands zero. -/
theorem test_table_words :
    decodeTableWord 8 0 = some (.init 0 0) ∧ decodeTableWord 8 1 = some (.setlight 0 0 0 0 0)
      ∧ decodeTableWord 8 2 = some .render ∧ decodeTableWord 8 3 = some .resetall := by decide

/-- Bits above `nbits` are 0, and within them the operand ports follow `cmd_op`: a0 = 10 gives INIT's data pin. -/
theorem test_table_word_operands :
    decodeTableWord 66 (0 + 4 * 10 + 17179869184 * 11) = some (.init 10 11)
      ∧ decodeTableWord 8 (256 + 2) = some .render := by decide

theorem test_encode_is_none_for_micro : encode (.writebyte 0xA5) = none := by decide

/-! Formats. -/

/-- R58: status 3 is never produced; R59: bound codes 5 to 7 neither. -/
theorem test_response_rejects :
    decodeResponse ⟨3, 0, 0⟩ = .error .statusNeverProduced ∧ decodeResponse ⟨1, 0, 5⟩ = .error .boundNeverProduced := by
  exact ⟨rfl, rfl⟩

/-- P3 row 5's response: InvalidArgument(index -1, bound 0). -/
theorem test_response_words :
    encodeResponse 0 (.invalidArgument (-1) .index) = ⟨1, 0xFFFFFFFF, 0⟩
      ∧ encodeResponse 0 (.invalidArgument 2 .brightness) = ⟨1, 2, 4⟩ := by decide

/-- R128. -/
theorem test_line_codes :
    encodeEvent ⟨.pwr, true⟩ = ⟨0, 1⟩ ∧ encodeEvent ⟨.data, false⟩ = ⟨1, 0⟩ ∧ encodeEvent ⟨.clk, true⟩ = ⟨2, 1⟩ := by decide

/-- R61: a line that is no call, and an operand no port carries, are not assembled. -/
theorem test_text_rejects :
    parseLine "setLight(1, 2)".toList = none ∧ assemble (.setLight 2147483648 0 0 0 0) = none := by decide

/-! The step and the reset. -/

/-- `step` runs the transfer `withFetchWord` places, as the first after reset. -/
theorem test_fetch_render :
    rspOf (step (State.reset.withFetchWord 8 2)) = some [.preconditionViolation] := by decide

/-- P4: nothing follows a fault, so an INIT presented to a faulted engine is not taken. -/
theorem test_faulted_engine_takes_nothing :
    nextOf (step { dead with host := [.command ⟨0b00, 5, 6, 0, 0, 0⟩] })
      = some { dead with host := [.command ⟨0b00, 5, 6, 0, 0, 0⟩] } := by decide

/-- R101's example `new(3)`, R22. -/
theorem test_reset_values :
    State.reset.N = 3 ∧ State.reset.lifecycle = .uninitialized ∧ State.reset.buf = none ∧ State.reset.levelClk = none := by
  decide

/-- R141: a reset in mid-command performs nothing more and gives no response. -/
theorem test_reset_mid_command :
    (nextOf (step { two with pending := [⟨.data, true⟩], host := [.reset 7] })).map
      (fun t => (t.N, t.lifecycle, t.pending, t.history, t.responses)) = some (7, .uninitialized, [], [], []) := by decide

/-! Commands (V9). -/

/-- R102's example, `N = 1`: 194 events, first `(PWR, 1)`. -/
theorem test_init_trace :
    initTrace 1 = ⟨.pwr, true⟩ :: cells ([0,0,0,0,0,0,0,0] ++ [1,1,1,0,0,0,0,0] ++ List.replicate 24 0) ++ latchText := by
  decide +kernel

/-- V9, P6 row 3: a second INIT loses the pixel and replaces the bindings. -/
theorem test_init_again :
    (nextOf (exec (.init 3 4) (up [0x04010203]))).map (fun t => (t.bindData, t.bindClock, t.buf, t.pending.length))
      = some (some 3, some 4, some [0], 194) := by decide +kernel

/-- V9: `setLight(1,1,2,3,4)` on `[0, 0]`. -/
theorem test_setlight_stores :
    (nextOf (exec (.setlight 1 1 2 3 4) (up [0, 0]))).map (fun t => (t.buf, t.responses, t.pending))
      = some (some [0, 0x04010203], [.ok], []) := by decide

/-- V9: `setLight(9,999,0,0,99)` before INIT is PreconditionViolation (R122). -/
theorem test_setlight_before_init : rspOf (exec (.setlight 9 999 0 0 99) (fresh 2)) = some [.preconditionViolation] := by
  decide

/-- V9: RENDER of `[0, 0x04010203]`: wire bytes `00 00 E0 00 00 00 E4 03 02 01`. -/
theorem test_render_bits :
    (nextOf (exec .render two)).map State.pending = some (cells
      ([0,0,0,0,0,0,0,0, 0,0,0,0,0,0,0,0, 1,1,1,0,0,0,0,0, 0,0,0,0,0,0,0,0, 0,0,0,0,0,0,0,0, 0,0,0,0,0,0,0,0] ++
       [1,1,1,0,0,1,0,0, 0,0,0,0,0,0,1,1, 0,0,0,0,0,0,1,0, 0,0,0,0,0,0,0,1]) ++ latchText) := by decide +kernel

theorem test_render_before_init :
    (nextOf (exec .render (fresh 2))).map (fun t => (t.fault, t.pending)) = some (some .preconditionViolation, []) := by decide

/-- V9, R106's example: the buffer is zeroed, 313 events. -/
theorem test_resetall :
    (nextOf (exec .resetall (up [0x1F0000FF, 0x03112233]))).map (fun t => (t.buf, t.pending.length))
      = some (some [0, 0], 313) := by decide +kernel

theorem test_resetall_sends_dark :
    (nextOf (exec .resetall (up [0x1FFF0000]))).map State.pending =
      some (cells ([0,0,0,0,0,0,0,0] ++ [1,1,1,0,0,0,0,0] ++ List.replicate 24 0) ++ latchText) := by decide +kernel

/-! Pixel operations (V1 to V4). -/

theorem test_bufSet : bufOf (exec (.bufSet 1 0x1FFF0000) (up [0, 0, 0])) = some [0, 0x1FFF0000, 0] := by decide

/-- V4: `set(3, 0)` alone. -/
theorem test_bufSet_outside :
    (nextOf (exec (.bufSet 3 0) (up [0, 0, 0]))).map (fun t => (t.fault, t.buf))
      = some (some .preconditionViolation, some [0, 0, 0]) := by decide

theorem test_bufAll : retOf (exec .bufAll (up [0x05000001, 0])) = some (.pixels [0x05000001, 0x00000000]) := by decide

theorem test_bufAll_unallocated : faultOf (exec .bufAll (fresh 3)) = some .bufferUnallocated := by decide

theorem test_bufResetall : bufOf (exec .bufResetall (up [0x1F0000FF, 0x03112233])) = some [0, 0] := by decide

theorem test_bufResetall_unallocated : faultOf (exec .bufResetall (fresh 3)) = some .bufferUnallocated := by decide

/-- V3, the upper bounds. -/
theorem test_validate_ok : retOf (exec (.validate 2 255 255 255 31) (fresh 3)) = some .ok := by decide

/-- V3, the rows that fail: each bound, and the first of several. -/
theorem test_validate_bounds :
    rspOf (exec (.validate 3 0 0 0 0) (fresh 3)) = some [.invalidArgument 3 .index]
      ∧ rspOf (exec (.validate (-1) 0 0 0 0) (fresh 3)) = some [.invalidArgument (-1) .index]
      ∧ rspOf (exec (.validate 0 256 0 0 99) (fresh 3)) = some [.invalidArgument 0 .red]
      ∧ rspOf (exec (.validate 1 0 256 0 0) (fresh 3)) = some [.invalidArgument 1 .green]
      ∧ rspOf (exec (.validate 1 0 0 (-5) 0) (fresh 3)) = some [.invalidArgument 1 .blue]
      ∧ rspOf (exec (.validate 2 0 0 0 32) (fresh 3)) = some [.invalidArgument 2 .brightness]
      ∧ rspOf (exec (.validate 5 300 0 0 40) (fresh 3)) = some [.invalidArgument 5 .index] := by decide

/-- V1. -/
theorem test_pack : retOf (exec (.pack 18 52 86 16) (fresh 1)) = some (.pixel 0x10123456) := by decide

theorem test_pack_largest : retOf (exec (.pack 255 255 255 31) (fresh 1)) = some (.pixel 0x1FFFFFFF) := by decide

theorem test_unpack : retOf (exec (.unpack 0x1FC86432) (fresh 1)) = some (.channels ⟨200, 100, 50, 31⟩) := by decide

/-- V1: bits 31:29 ignored. -/
theorem test_unpack_total : retOf (exec (.unpack 0x9F123456) (fresh 1)) = some (.channels ⟨18, 52, 86, 31⟩) := by decide

/-- V2. -/
theorem test_encode : retOf (exec (.encode 0x10123456) (fresh 1)) = some (.bytes [0xF0, 0x56, 0x34, 0x12]) := by decide

theorem test_encode_total : retOf (exec (.encode 0x20000000) (fresh 1)) = some (.bytes [0xE0, 0, 0, 0]) := by decide

/-! Transmission (V5, V7). -/

theorem test_emit : (nextOf (exec (.emit .clk true) (fresh 1))).map (fun t => (t.levelPwr, t.levelData, t.levelClk, t.history))
    = some (none, none, some true, [⟨.clk, true⟩]) := by decide

theorem test_emit_hangs :
    faultOf (exec (.emit .data false) { fresh 1 with driver := .hangsAfter 0 }) = some .lineDriverHung := by decide

theorem test_clockpulse : traceOf (exec .clockpulse (fresh 1)) = some [⟨.clk, true⟩, ⟨.clk, false⟩] := by decide

/-- V5: `writeByte(0xA5)`. -/
theorem test_writebyte : traceOf (exec (.writebyte 0xA5) (fresh 1)) = some (cells [1,0,1,0,0,1,0,1]) := by decide +kernel

/-- V5: after `writeByte(0x01)` DATA is left at 1. -/
theorem test_writebyte_leaves_last_bit :
    (nextOf (exec (.writebyte 0x01) (fresh 1))).map (fun t => (t.levelData, t.levelClk)) = some (some true, some false) := by
  decide +kernel

/-- R85's example: `N = 3` gives 24 cells `cell(0)`. -/
theorem test_preamble : traceOf (exec .preamble (fresh 3)) = some (cells (List.replicate 24 0)) := by decide +kernel

/-- R86's example: bytes `FF 00 00 FF`. -/
theorem test_data : traceOf (exec (.data [0x1FFF0000]) (fresh 1)) =
    some (cells (List.replicate 8 1 ++ List.replicate 16 0 ++ List.replicate 8 1)) := by decide +kernel

theorem test_latch : traceOf (exec .latch (fresh 1)) = some latchText := by decide +kernel

/-- V7: all 193 events. -/
theorem test_renderMicro : traceOf (exec .renderMicro (up [0x1FFF0000])) =
    some (cells (List.replicate 8 0 ++ List.replicate 8 1 ++ List.replicate 16 0 ++ List.replicate 8 1) ++ latchText) := by
  decide +kernel

theorem test_renderMicro_unallocated : faultOf (exec .renderMicro (fresh 1)) = some .bufferUnallocated := by decide

/-- V7: the sampled stream. -/
theorem test_sampled_stream :
    sampledStream none (renderTrace 1 [0x1FFF0000]) =
      (List.replicate 8 false ++ List.replicate 8 true ++ List.replicate 16 false ++ List.replicate 8 true
        ++ List.replicate 36 false).map some := by decide +kernel

/-- R94: the position after LED 0's last byte of two is LED 1's first; the last pulse ends the frame. -/
theorem test_position_next :
    Position.next 2 (.data 0 3 0 .clkLow) = some (.data 1 0 7 .setData)
      ∧ Position.next 2 (.data 1 3 0 .clkLow) = some (.latch 0 .setData) ∧ Position.next 2 (.latch 35 .clkLow) = none := by
  decide

/-! Witnesses: concrete states and operands that meet all the hypotheses of a statement together, a clause at a time where
a statement has clauses, at the boundary values of each clause. -/

/-- An initialized encoder whose host presents a command. -/
def asking (p : List Pixel) (w : CmdWord) : State :=
  { up p with host := [.command w] }

/-- The transfers of RENDER and RESETALL, ignored ports all ones. -/
def renderWord : CmdWord :=
  ⟨0b10, 0xFFFFFFFF, 0, 0, 0, 0⟩

/-- See `renderWord`. -/
def resetallWord : CmdWord :=
  ⟨0b11, 0, 0xFFFFFFFF, 0, 0, 0⟩

/-- An instance whose Line Driver completes `k` more calls. -/
def hanging (k : Nat) (p : List Pixel) : State :=
  { up p with driver := .hangsAfter k }

/-- The state `up p` meets the invariant when its buffer does. -/
theorem up_inv (p : List Pixel) (h : legalLightCount p.length = true) (hw : Memory.wf p.length (some p) = true) :
    Inv (up p) where
  lightCount := h
  buffer := hw
  allocated := rfl
  boundData := rfl
  boundClock := rfl
  pins d c hd hc := by
    cases hd
    cases hc
    rfl
  faulted h := absurd h (by simp [up, State.new])
  untouched h := absurd h (by simp [up])
  idleLevels _ := ⟨rfl, rfl, rfl⟩
  powerFirst _ := .inl rfl
  neverPoweredDown := ⟨by simp [up], by simp [up, State.new]⟩
  powerBeforeClock h := absurd h (by simp [up])

/-- DecodeOfEncodeIsTheInstruction: operands at both ends of a port, and a transfer that differs in ignored ports. -/
theorem witness_decode_of_encode :
    (Instr.setlight (-2147483648) 2147483647 0 (-1) 32).wellFormed = true
      ∧ encode (.setlight (-2147483648) 2147483647 0 (-1) 32) = some ⟨0b01, 0x80000000, 0x7FFFFFFF, 0, 0xFFFFFFFF, 32⟩
      ∧ encode (.init 0xFFFFFFFF 0) = some ⟨0b00, 0xFFFFFFFF, 0, 0, 0, 0⟩
      ∧ decode ⟨0b00, 0xFFFFFFFF, 0, 7, 8, 9⟩ = .init 0xFFFFFFFF 0
      ∧ (Instr.writebyte 0xFF).wellFormed = true ∧ (Instr.writebyte 0xFF).isCommand = false := by decide

/-- ResponsePortRoundTrip: indices at both ends of the port. -/
theorem witness_response_port : fitsPort (-2147483648) = true ∧ fitsPort 2147483647 = true := by decide

/-- R59: no free value puts a bound code above 4 on the port. -/
theorem test_response_bound : (encodeResponse 0 .ok).bound.toNat < 5 := boundNotMeaningful_lt 0

/-- LineDriverPortRoundTrip: the line code that is no line. -/
theorem witness_line_code : (⟨3, 1⟩ : LdWord).line = 3 := by decide

/-- StepRunsThePresentedCommand. -/
theorem witness_step_runs :
    (asking [0] renderWord).host = .command renderWord :: [] ∧ (asking [0] renderWord).pending = []
      ∧ (asking [0] renderWord).fault = none := by decide

/-- CommandNotTakenWhileBusyOrFaulted: once busy, once faulted. -/
theorem witness_not_taken :
    Instr.render.isCommand = true ∧ { up [0] with pending := [⟨.clk, true⟩] }.pending ≠ [] ∧ dead.fault ≠ none := by decide

/-- WriteStepPerformsThePendingEvent: the last event and an earlier one, the host waiting and holding a command, a driver
that completes just one more call. -/
theorem witness_write_step :
    ({ hanging 1 [0] with pending := [⟨.clk, false⟩] }.pending = ⟨.clk, false⟩ :: []
        ∧ (hanging 1 [0]).driver.completes 1 = true ∧ (hanging 1 [0]).host = [])
      ∧ ({ asking [0] renderWord with pending := [⟨.clk, true⟩, ⟨.clk, false⟩] }.pending = ⟨.clk, true⟩ :: [⟨.clk, false⟩]
        ∧ (asking [0] renderWord).driver.completes 1 = true ∧ (asking [0] renderWord).host = .command renderWord :: []) := by
  decide

/-- HungLineDriverStopsTheEngine: with the host waiting, and with a command presented. -/
theorem witness_hung :
    ({ hanging 0 [0] with pending := [⟨.clk, true⟩] }.pending ≠ [] ∧ (hanging 0 [0]).driver = .hangsAfter 0
        ∧ (hanging 0 [0]).resetting = false)
      ∧ { hanging 0 [0] with pending := [⟨.clk, true⟩], host := [.command renderWord] }.resetting = false := by decide

/-- IdleEncoderStaysIdle: the reset state itself; only waits left, or a reset next (with no wait before it, and with one); a
command left, presented or behind a wait; a faulted encoder; and a run that has ended with a wait still to come. -/
theorem witness_idle :
    (State.reset.host = [] ∧ State.reset.pending = [])
      ∧ (two.pending = [] ∧ { two with host := [.wait] }.host = List.replicate 1 .wait ++ []
        ∧ { two with host := [.reset 1] }.host = List.replicate 0 .wait ++ .reset 1 :: [])
      ∧ (two.fault = none ∧ (asking [0] renderWord).host = List.replicate 0 .wait ++ .command renderWord :: []
        ∧ { two with host := [.wait, .command renderWord] }.host = List.replicate 1 .wait ++ .command renderWord :: [])
      ∧ (dead.pending = [] ∧ dead.fault ≠ none)
      ∧ ({ two with host := [.wait] }.ended = true ∧ { two with host := [.wait] }.resetting = false) := by decide

/-- WaitingHostLetsTheEngineGoOn: idle, and with an event pending. -/
theorem witness_waiting :
    ({ up [0] with host := [.wait] }.host = .wait :: [] ∧ { up [0] with host := [.wait] }.pending = [])
      ∧ ({ up [0] with pending := [⟨.clk, true⟩], host := [.wait] }.pending ≠ []
        ∧ (nextOf (step { up [0] with pending := [⟨.clk, true⟩], host := [] })).isSome = true) := by decide

/-- HostResetMakesANewInstance: the smallest and the largest count, the second in mid-command. -/
theorem witness_reset :
    ({ up [0] with host := [.reset 1] }.host = .reset 1 :: [] ∧ (1 : Int) ≤ 1 ∧ (1 : Int) ≤ 2147483647)
      ∧ ({ up [0] with pending := [⟨.clk, true⟩], host := [.reset 2147483647] }.host = .reset 2147483647 :: []
        ∧ (1 : Int) ≤ 2147483647 ∧ (2147483647 : Int) ≤ 2147483647) := by decide

/-- IllegalLightCountIsRefused: just outside each end, and that the step refuses there. -/
theorem witness_illegal_count :
    ((0 : Int) < 1 ∧ refusalOf (step { fresh 1 with host := [.reset 0] }) = some .illegalLightCount)
      ∧ ((2147483647 : Int) < 2147483648
        ∧ refusalOf (step { fresh 1 with host := [.reset 2147483648] }) = some .illegalLightCount) := by decide

/-- BufSetReplacesOneCell: the first and the last cell. -/
theorem witness_bufSet :
    two.buf = some [0, 0x04010203] ∧ [(0 : Pixel), 0x04010203].length = two.N
      ∧ ((0 : Int) ≤ 0 ∧ (0 : Int) < two.N) ∧ ((0 : Int) ≤ 1 ∧ (1 : Int) < two.N) := by decide

/-- BufSetOutsideTheBufferIsFatal: just outside each end, with the buffer allocated and without. -/
theorem witness_bufSet_outside :
    (-1 : Int) < 0 ∧ (two.N : Int) ≤ 2 ∧ ((fresh 2).N : Int) ≤ 2
      ∧ rspOf (exec (.bufSet 2 0) two) = some [.preconditionViolation]
      ∧ rspOf (exec (.bufSet (-1) 0) (fresh 2)) = some [.preconditionViolation] := by decide

/-- BufAllAnswersTheSnapshot and BufResetallZeroesEveryCell. -/
theorem witness_buffer : two.buf = some [0, 0x04010203] ∧ [(0 : Pixel), 0x04010203].length = two.N := by decide

/-- UnallocatedBufferFaults: no buffer, and for `set` the first and the last index. -/
theorem witness_unallocated :
    (fresh 2).buf = none ∧ ((0 : Int) ≤ 0 ∧ (0 : Int) < (fresh 2).N) ∧ ((0 : Int) ≤ 1 ∧ (1 : Int) < (fresh 2).N) := by decide

/-- ValidateTestsBoundsInSignatureOrder: its clauses exclude each other; the values on each side of each bound. -/
theorem witness_validate :
    retOf (exec (.validate 0 0 0 0 0) (fresh 1)) = some .ok ∧ retOf (exec (.validate 0 255 255 255 31) (fresh 1)) = some .ok
      ∧ rspOf (exec (.validate 1 0 0 0 0) (fresh 1)) = some [.invalidArgument 1 .index]
      ∧ rspOf (exec (.validate 0 (-1) 0 0 0) (fresh 1)) = some [.invalidArgument 0 .red]
      ∧ rspOf (exec (.validate 0 255 (-1) 0 0) (fresh 1)) = some [.invalidArgument 0 .green]
      ∧ rspOf (exec (.validate 0 255 255 256 0) (fresh 1)) = some [.invalidArgument 0 .blue]
      ∧ rspOf (exec (.validate 0 255 255 255 (-1)) (fresh 1)) = some [.invalidArgument 0 .brightness] := by decide

/-- PackUnpackRoundTrip: the smallest and the largest operands, and values on each side of bit 29 (V1). -/
theorem witness_round_trip :
    packOperands 0 0 0 0 = 0x00000000 ∧ packOperands 255 255 255 31 = 0x1FFFFFFF
      ∧ packChannels (unpackPixel 0x1FFFFFFF) = 0x1FFFFFFF ∧ packChannels (unpackPixel 0x20000000) ≠ 0x20000000 := by decide

/-- EncodeIsInjective. -/
theorem witness_encode_injective :
    (0x1FFFFFFF : Pixel).toNat < 2 ^ 29 ∧ wireBytes 0x1FFFFFFF = wireBytes (packOperands 255 255 255 31) := by decide

/-- EmitSetsItsLine: a driver with one call left, and with none. -/
theorem witness_emit :
    (hanging 1 [0]).driver.completes 1 = true ∧ (hanging 0 [0]).driver.completes 1 = false := by decide

/-- The transmission operations: a driver with exactly the calls the operation needs, an instance of one light. -/
theorem witness_transmission :
    (hanging 2 [0]).driver.completes 2 = true ∧ (hanging 24 [0]).driver.completes 24 = true
      ∧ (1 ≤ (hanging 24 [0]).N ∧ (hanging 24 [0]).driver.completes (24 * (hanging 24 [0]).N) = true)
      ∧ ([(7 : Pixel)].getLast? = some 7 ∧ (hanging 96 [0]).driver.completes (96 * [(7 : Pixel)].length) = true)
      ∧ (hanging 73 [0]).driver.completes 73 = true
      ∧ ((hanging 193 [0]).buf = some [0] ∧ [(0 : Pixel)].length = (hanging 193 [0]).N
        ∧ (hanging 193 [0]).driver.completes (120 * (hanging 193 [0]).N + 73) = true) := by decide

/-- TransmissionHangsWithItsDriver: a driver one call short of each operation. -/
theorem witness_transmission_hangs :
    ((hanging 0 [0]).driver = .hangsAfter 0 ∧ 0 < 1) ∧ ((hanging 1 [0]).driver = .hangsAfter 1 ∧ 1 < 2)
      ∧ ((hanging 23 [0]).driver = .hangsAfter 23 ∧ 23 < 24 ∧ 23 < 24 * (hanging 23 [0]).N)
      ∧ ((hanging 95 [0]).driver = .hangsAfter 95 ∧ 95 < 96 * [(0 : Pixel)].length)
      ∧ ((hanging 72 [0]).driver = .hangsAfter 72 ∧ 72 < 73)
      ∧ ((hanging 192 [0]).driver = .hangsAfter 192 ∧ (hanging 192 [0]).buf = some [0]
        ∧ [(0 : Pixel)].length = (hanging 192 [0]).N ∧ 192 < 120 * (hanging 192 [0]).N + 73) := by decide

/-- FrameEventsByNumber and FrameSizeDependsOnTheLightCountOnly: a frame of one light, the bits on each side of the end of the
preamble and the last one (V7: bit 8 is byte `FF`'s first). -/
theorem witness_frame :
    [(0x1FFF0000 : Pixel)].length = 1 ∧ 7 < 8 * 1 ∧ 8 * 1 ≤ 8 ∧ [(0x1FFF0000 : Pixel)][(8 - 8 * 1) / 32]? = some 0x1FFF0000
      ∧ [(0x1FFF0000 : Pixel)][(39 - 8 * 1) / 32]? = some 0x1FFF0000
      ∧ (frameBits 1 [0x1FFF0000])[7]? = some false ∧ (frameBits 1 [0x1FFF0000])[8]? = some true := by decide +kernel

/-- FrameEventsByNumber, event numbers on each side of each boundary (V7). -/
theorem witness_frame_events :
    frameEvent 1 [0x1FFF0000] 119 = some ⟨.clk, false⟩ ∧ frameEvent 1 [0x1FFF0000] 120 = some ⟨.data, false⟩
      ∧ frameEvent 1 [0x1FFF0000] 121 = some ⟨.clk, true⟩ ∧ frameEvent 1 [0x1FFF0000] 192 = some ⟨.clk, false⟩
      ∧ frameEvent 1 [0x1FFF0000] 193 = none := by decide +kernel

/-- SampledStreamIsTheFrameBitsThenZeros: with DATA unknown before. -/
theorem witness_sampled :
    [(0x1FFF0000 : Pixel)].length = 1 ∧ (sampledStream none (renderTrace 1 [0x1FFF0000])).length = 76 := by decide +kernel

/-- SequencePositionFollowsTheFrame: the first and the last position of each phase. -/
theorem witness_position :
    1 ≤ 1 ∧ [(0 : Pixel)].length = 1 ∧ (Position.preamble 0 7 .setData).valid 1 = true
      ∧ (Position.preamble 0 0 .clkLow).next 1 = some (.data 0 0 7 .setData) ∧ (Position.data 0 3 0 .clkLow).valid 1 = true
      ∧ (Position.data 0 3 0 .clkLow).next 1 = some (.latch 0 .setData) ∧ (Position.latch 35 .clkLow).valid 1 = true
      ∧ (Position.latch 35 .clkLow).next 1 = none := by decide

/-- InitBindsAllocatesAndSendsADarkFrame: from reset, and on an initialized encoder. -/
theorem witness_init :
    ((fresh 1).pending = [] ∧ (fresh 1).fault = none ∧ (5 : Pin) ≠ 6 ∧ (5 : Pin) ≠ (fresh 1).powerPin
        ∧ (6 : Pin) ≠ (fresh 1).powerPin)
      ∧ (two.pending = [] ∧ two.fault = none ∧ (5 : Pin) ≠ two.powerPin ∧ (6 : Pin) ≠ two.powerPin) := by decide

/-- InitOnSharedPinsIsRefused: each of the three ways two lines share a pin, and that it is refused there. -/
theorem witness_shared_pins :
    (fresh 1).pending = [] ∧ (fresh 1).fault = none
      ∧ refusalOf (exec (.init 5 5) (fresh 1)) = some .pinsNotDistinct
      ∧ ((99 : Pin) = (fresh 1).powerPin ∧ refusalOf (exec (.init 99 6) (fresh 1)) = some .pinsNotDistinct)
      ∧ refusalOf (exec (.init 5 99) (fresh 1)) = some .pinsNotDistinct := by decide

/-- SetlightStoresOnePackedPixel: the smallest and the largest operands. -/
theorem witness_setlight :
    (two.pending = [] ∧ two.fault = none ∧ two.lifecycle = .initialized ∧ two.buf = some [0, 0x04010203]
        ∧ [(0 : Pixel), 0x04010203].length = two.N)
      ∧ ((0 : Int) ≤ 0 ∧ (0 : Int) < two.N ∧ (0 : Int) ≤ 255 ∧ (0 : Int) ≤ 31)
      ∧ ((0 : Int) ≤ 1 ∧ (1 : Int) < two.N ∧ (0 : Int) ≤ 255 ∧ (255 : Int) ≤ 255 ∧ (0 : Int) ≤ 31 ∧ (31 : Int) ≤ 31)
      ∧ bufOf (exec (.setlight 0 0 0 0 0) two) = some [0, 0x04010203]
      ∧ bufOf (exec (.setlight 1 255 255 255 31) two) = some [0, 0x1FFFFFFF] := by decide

/-- The negation of this is the hypothesis of SetlightOutOfRangeChangesNothing. -/
abbrev InAllRanges (s : State) (i r g b br : Int) : Prop :=
  (0 ≤ i ∧ i < s.N) ∧ (0 ≤ r ∧ r ≤ 255) ∧ (0 ≤ g ∧ g ≤ 255) ∧ (0 ≤ b ∧ b ≤ 255) ∧ (0 ≤ br ∧ br ≤ 31)

/-- SetlightOutOfRangeChangesNothing: each bound failing just outside its range. -/
theorem witness_setlight_out_of_range :
    (two.pending = [] ∧ two.fault = none ∧ two.lifecycle = .initialized)
      ∧ (¬InAllRanges two 2 0 0 0 0 ∧ ¬InAllRanges two 1 256 0 0 0 ∧ ¬InAllRanges two 1 0 256 0 0
        ∧ ¬InAllRanges two 1 0 0 (-1) 0 ∧ ¬InAllRanges two 1 0 0 0 32)
      ∧ rspOf (exec (.setlight 2 0 0 0 0) two) = some [.invalidArgument 2 .index]
      ∧ rspOf (exec (.setlight 1 256 0 0 0) two) = some [.invalidArgument 1 .red]
      ∧ rspOf (exec (.setlight 1 0 256 0 0) two) = some [.invalidArgument 1 .green]
      ∧ rspOf (exec (.setlight 1 0 0 (-1) 0) two) = some [.invalidArgument 1 .blue]
      ∧ rspOf (exec (.setlight 1 0 0 0 32) two) = some [.invalidArgument 1 .brightness] :=
  ⟨by decide, by decide, by decide⟩

/-- RenderSendsTheBuffer and ResetallZeroesThenSendsADarkFrame. -/
theorem witness_render :
    two.pending = [] ∧ two.fault = none ∧ two.lifecycle = .initialized ∧ two.buf = some [0, 0x04010203] := by decide

/-- CommandsBeforeInitAreFatal: each of the three commands. -/
theorem witness_before_init :
    ((fresh 2).pending = [] ∧ (fresh 2).fault = none ∧ (fresh 2).lifecycle = .uninitialized)
      ∧ rspOf (exec (.setlight 0 0 0 0 0) (fresh 2)) = some [.preconditionViolation]
      ∧ rspOf (exec .render (fresh 2)) = some [.preconditionViolation]
      ∧ rspOf (exec .resetall (fresh 2)) = some [.preconditionViolation] := by decide

/-- ErrorsArePrecise: a step that raises each of the two errors. -/
theorem witness_errors :
    (nextOf (exec (.setlight 2 0 0 0 0) two)).map State.responses = some (two.responses ++ [.invalidArgument 2 .index])
      ∧ Response.invalidArgument 2 .index ≠ .ok
      ∧ (nextOf (exec .render (fresh 2))).map State.responses = some ((fresh 2).responses ++ [.preconditionViolation])
      ∧ Response.preconditionViolation ≠ .ok := by decide

/-- OneResponsePerCommand: a command that responds at once, and one whose response is to come. -/
theorem witness_one_response :
    Instr.render.isCommand = true ∧ two.pending = [] ∧ two.fault = none
      ∧ (nextOf (exec (.setlight 0 1 2 3 4) two)).map (fun t => (t.pending, t.responses)) = some ([], [.ok])
      ∧ (nextOf (exec .render two)).map (fun t => (t.pending.length, t.responses)) = some (313, []) := by decide +kernel

/-- InvariantHoldsAtReset: the smallest and the largest instance. -/
theorem witness_reset_inv : 1 ≤ 1 ∧ 1 ≤ Config.maxLights ∧ Config.maxLights ≤ Config.maxLights := by decide

/-- EveryStepKeepsTheInvariant: an initialized encoder that accepts a SETLIGHT. -/
theorem witness_step_inv :
    Inv { up [0] with host := [.command ⟨0b01, 0, 1, 2, 3, 4⟩] }
      ∧ (nextOf (step { up [0] with host := [.command ⟨0b01, 0, 1, 2, 3, 4⟩] })).map State.buf = some (some [0x04010203]) := by
  have h := up_inv [0] (by decide) (by decide)
  exact ⟨⟨h.1, h.2, h.3, h.4, h.5, h.6, h.7, h.8, h.9, h.10, h.11, h.12⟩, by decide⟩

/-- EveryStepKeepsTheBufferForm. -/
theorem witness_step_wf :
    Memory.wf two.N two.buf = true
      ∧ (nextOf (step { two with host := [.command ⟨0b01, 0, 1, 2, 3, 4⟩] })).isSome = true := by decide

/-- OnlyResetUndoesTheSticky: an initialized encoder, and a faulted one. -/
theorem witness_sticky :
    (two.resetting = false ∧ nextOf (step two) = some two ∧ two.lifecycle = .initialized)
      ∧ (dead.resetting = false ∧ nextOf (step dead) = some dead ∧ dead.fault.isSome = true ∧ dead.pending = []) := by decide

/-- AStepPerformsAtMostOneEvent: a step that performs none, and one that performs one. -/
theorem witness_one_event :
    (two.resetting = false ∧ nextOf (step two) = some two)
      ∧ ({ two with pending := [⟨.clk, true⟩] }.resetting = false
        ∧ traceOf (step { two with pending := [⟨.clk, true⟩] }) = some [⟨.clk, true⟩]) := by decide

/-- PowerEnableComesFirst: a run of two steps that performs the first event. -/
theorem witness_power_first :
    (∀ x, HostMove.reset x ∉ [HostMove.command ⟨0b00, 5, 6, 0, 0, 0⟩])
      ∧ traceOf (run 2 { fresh 1 with host := [.command ⟨0b00, 5, 6, 0, 0, 0⟩] }) = some [⟨.pwr, true⟩] :=
  ⟨by simp, by decide +kernel⟩

/-- IdleLinesAndPoweredClocking: a state that meets the invariant whose step performs a last event, on CLK, and leaves the
encoder initialized with nothing pending. -/
theorem witness_idle_lines :
    Inv { up [0] with pending := [⟨.clk, false⟩] }
      ∧ (nextOf (step { up [0] with pending := [⟨.clk, false⟩] })).map
          (fun t => (t.history, t.lifecycle, t.pending)) = some ([⟨.clk, false⟩], .initialized, [])
      ∧ (⟨.clk, false⟩ : LineEvent).line ≠ .pwr := by
  have h := up_inv [0] (by decide) (by decide)
  refine ⟨⟨h.1, h.2, h.3, h.4, h.5, h.6, h.7, fun hl => absurd hl (by simp [up]), fun _ => ⟨rfl, rfl, rfl⟩,
    fun _ => .inl rfl, ⟨by simp [up], by simp⟩, fun hl => absurd hl (by simp [up])⟩, by decide, by decide⟩

/-- PendingEventsDrain: a driver that completes just the calls pending. -/
theorem witness_drain :
    { hanging 2 [0] with pending := clockPulseTrace }.host = []
      ∧ { hanging 2 [0] with pending := clockPulseTrace }.driver.completes clockPulseTrace.length = true := by decide

/-- CommandsRunToCompletion: RENDER, and RESETALL. -/
theorem witness_completion :
    ((up [7]).pending = [] ∧ (up [7]).fault = none ∧ (up [7]).lifecycle = .initialized ∧ (up [7]).buf = some [7]
        ∧ [(7 : Pixel)].length = (up [7]).N ∧ (up [7]).driver = .ready)
      ∧ (decode renderWord = .render ∧ (asking [7] renderWord).host = [.command renderWord])
      ∧ (decode resetallWord = .resetall ∧ (asking [7] resetallWord).host = [.command resetallWord]) := by decide

/-- InitRunsToCompletion: from reset. -/
theorem witness_init_completion :
    (fresh 1).pending = [] ∧ (fresh 1).fault = none ∧ (fresh 1).driver = .ready ∧ decode ⟨0b00, 5, 6, 1, 1, 1⟩ = .init 5 6
      ∧ (5 : Pin) ≠ 6 ∧ (5 : Pin) ≠ (fresh 1).powerPin ∧ (6 : Pin) ≠ (fresh 1).powerPin
      ∧ { fresh 1 with host := [.command ⟨0b00, 5, 6, 1, 1, 1⟩] }.host = [.command ⟨0b00, 5, 6, 1, 1, 1⟩] := by decide

/-- TwoRendersSendTheSameEvents. -/
theorem witness_two_renders :
    ((up [7]).pending = [] ∧ (up [7]).fault = none ∧ (up [7]).lifecycle = .initialized ∧ (up [7]).buf = some [7]
        ∧ [(7 : Pixel)].length = (up [7]).N ∧ (up [7]).driver = .ready)
      ∧ decode renderWord = .render
      ∧ { up [7] with host := [.command renderWord, .command renderWord] }.host
          = [.command renderWord, .command renderWord] := by decide

/-- SetlightIsVisibleToTheNextRender. -/
theorem witness_visible :
    decode ⟨0b01, 0, 255, 255, 255, 31⟩ = .setlight 0 255 255 255 31 ∧ decode renderWord = .render
      ∧ ((up [7]).pending = [] ∧ (up [7]).fault = none ∧ (up [7]).lifecycle = .initialized ∧ (up [7]).buf = some [7]
        ∧ [(7 : Pixel)].length = (up [7]).N ∧ (up [7]).driver = .ready)
      ∧ ((0 : Int) ≤ 0 ∧ (0 : Int) < (up [7]).N ∧ (0 : Int) ≤ 255 ∧ (255 : Int) ≤ 255 ∧ (0 : Int) ≤ 31 ∧ (31 : Int) ≤ 31)
      ∧ { up [7] with host := [.command ⟨0b01, 0, 255, 255, 255, 31⟩, .command renderWord] }.host
          = [.command ⟨0b01, 0, 255, 255, 255, 31⟩, .command renderWord] := by decide

/-- ResetallEqualsSetlightsThenRender: two lights; `zero j` is the transfer of `setLight(j, 0, 0, 0, 0)`. -/
theorem witness_resetall_equals :
    (two.pending = [] ∧ two.fault = none ∧ two.lifecycle = .initialized ∧ two.buf = some [0, 0x04010203]
        ∧ [(0 : Pixel), 0x04010203].length = two.N ∧ two.driver = .ready)
      ∧ (∀ j : Nat, j < two.N → decode ⟨0b01, BitVec.ofNat 32 j, 0, 0, 0, 0⟩ = .setlight (j : Int) 0 0 0 0)
      ∧ decode resetallWord = .resetall ∧ decode renderWord = .render := by
  refine ⟨by decide, fun j hj => ?_, by decide⟩
  have h : j = 0 ∨ j = 1 := by
    have : two.N = 2 := rfl
    omega
  rcases h with rfl | rfl <;> decide

end Sys2Proof.Tests
end

section
/-! PROOFS. The Pixel Buffer's cells after one of them is replaced, and `set` at an index of the buffer (R31, R65). -/

namespace Sys2Proof.Machine

/-- With the buffer allocated, reading a cell is reading the list of cells (R31). -/
theorem State.cell_of_buf {s : State} {p : List Pixel} (h : s.buf = some p) (j : Nat) : s.cell j = p[j]? := by
  simp [State.cell, h]

/-- The read-after-write rule of the buffer, for any two states whose buffers differ in one replaced cell: that cell reads
as the new value, every other cell as before (R31). -/
theorem State.cell_of_buf_set {s t : State} {p : List Pixel} {k : Nat} {v : Pixel} (hs : s.buf = some p)
    (ht : t.buf = some (p.set k v)) (hk : k < p.length) (j : Nat) :
    t.cell j = if j = k then some v else s.cell j := by
  rw [State.cell_of_buf ht, State.cell_of_buf hs]
  split
  next hjk => rw [hjk, List.getElem?_set_self hk]
  next hjk => exact List.getElem?_set_ne (Ne.symm hjk)

/-- The cells are those at the indices `0 .. N-1` (R31, R37). -/
theorem State.hasCell_iff (s : State) (i : Int) : s.hasCell i = true ↔ 0 ≤ i ∧ i < s.N := by
  rw [State.hasCell, inRange_iff, Int.le_sub_one_iff]

/-- BUF_SET at a cell of the allocated buffer is the write of that cell (R31, R65). -/
theorem execBufSet_of_hasCell {s : State} {p : List Pixel} {i : Int} (hi : s.hasCell i = true) (hb : s.buf = some p)
    (v : Pixel) : execBufSet i v s = .next (s.writeCell p i v) := by
  rw [execBufSet, if_pos hi, withBuffer_some hb]

/-- Settles O16: the index names a cell, so `set` is the write of that cell, and the read-after-write rule gives every
cell of the new buffer. -/
theorem bufSetReplacesOneCell : Obligations.BufSetReplacesOneCell := by
  intro s p i v hb hlen h0 hN
  have hexec : exec (.bufSet i v) s = .next (s.writeCell p i v) :=
    execBufSet_of_hasCell ((s.hasCell_iff i).mpr ⟨h0, hN⟩) hb v
  have hk : i.toNat < p.length := by omega
  exact ⟨s.writeCell p i v, hexec, rfl, State.cell_of_buf_set hb rfl hk⟩

end Sys2Proof.Machine
end

section
/-! PROOFS. The buffer's snapshot and its clearing (R66, R67). -/

namespace Sys2Proof.Machine

/-- Every index below the length of the allocated buffer names a cell (R31). -/
theorem State.cell_isSome_of_lt {s : State} {p : List Pixel} {j : Nat} (hb : s.buf = some p) (hj : j < p.length) :
    (s.cell j).isSome = true := by
  rw [State.cell_of_buf hb, List.getElem?_eq_getElem hj, Option.isSome_some]

/-- Reading the cells of the allocated buffer in order gives back the list that holds them. -/
theorem State.map_cell_range {s : State} {p : List Pixel} (hb : s.buf = some p) :
    (List.range p.length).map (fun j => (s.cell j).getD 0) = p := by
  refine List.ext_getElem (by rw [List.length_map, List.length_range]) fun j _ hj => ?_
  rw [List.getElem_map, List.getElem_range, State.cell_of_buf hb, List.getElem?_eq_getElem hj, Option.getD_some]

/-- Every cell of a cleared list is 0 (R67). -/
theorem clearCells_getElem? {p : List Pixel} {j : Nat} (hj : j < p.length) : (clearCells p)[j]? = some 0 := by
  rw [clearCells_eq, List.getElem?_replicate_of_lt hj]

/-- BUF_ALL with an allocated buffer answers the list of cells (R66). -/
theorem exec_bufAll_of_buf {s : State} {p : List Pixel} (hb : s.buf = some p) :
    exec .bufAll s = .next (s.returning (.pixels p)) :=
  withBuffer_some hb

/-- BUF_RESETALL with an allocated buffer replaces it by the cleared one (R67). -/
theorem exec_bufResetall_of_buf {s : State} {p : List Pixel} (hb : s.buf = some p) :
    exec .bufResetall s = .next (s.withBuf (clearCells p)) :=
  withBuffer_some hb

/-- Settles O18: the list BUF_ALL answers is the one its cells spell out in order. -/
theorem bufAllAnswersTheSnapshot : Obligations.BufAllAnswersTheSnapshot := by
  intro s p hb hlen
  have hsnap : (List.range s.N).map (fun j => (s.cell j).getD 0) = p := hlen ▸ State.map_cell_range hb
  rw [hsnap]
  exact ⟨exec_bufAll_of_buf hb, fun j hj => State.cell_isSome_of_lt hb (hlen ▸ hj)⟩

/-- Settles O19: the new buffer is the cleared list, which has the old length and reads 0 at each cell. -/
theorem bufResetallZeroesEveryCell : Obligations.BufResetallZeroesEveryCell := by
  intro s p hb
  refine ⟨s.withBuf (clearCells p), clearCells p, exec_bufResetall_of_buf hb, rfl, clearCells_length p, fun j hj => ?_⟩
  rw [State.cell_of_buf (State.withBuf_buf s (clearCells p)), clearCells_getElem? hj]

end Sys2Proof.Machine
end

section
/-! PROOFS. The packed pixel as a number: where `pack` puts each field and where `unpack` reads it (R69, R70), that they are
inverse (R71), and the wire word (R48, R72). -/

namespace Sys2Proof.Machine

/-- A field that fits in a pixel at position `k` loses nothing by being shifted there. -/
theorem toNat_setWidth_shiftLeft {w k : Nat} (x : BitVec w) (hk : w + k ≤ 32) :
    (x.setWidth 32 <<< k).toNat = x.toNat <<< k := by
  have hlt : x.toNat <<< k < 2 ^ 32 := calc
    x.toNat <<< k < 2 ^ w * 2 ^ k := by
      rw [Nat.shiftLeft_eq]
      exact Nat.mul_lt_mul_of_pos_right x.isLt (Nat.two_pow_pos k)
    _ ≤ 2 ^ 32 := by
      rw [← Nat.pow_add]
      exact Nat.pow_le_pow_right (by decide) hk
  rw [BitVec.toNat_shiftLeft, BitVec.toNat_setWidth_of_le (by omega), Nat.mod_eq_of_lt hlt]

/-- The `|` of shifted fields, nested like the digits of a number: each byte goes below the fields already placed (R69). -/
theorem packChannels_toNat_nested (c : Channels) :
    (packChannels c).toNat
      = ((c.brightness.toNat <<< 8 ||| c.red.toNat) <<< 8 ||| c.green.toNat) <<< 8 ||| c.blue.toNat := by
  simp (disch := decide) only [packChannels, Format.brightnessPos, Format.redPos, Format.greenPos, Format.bluePos,
    BitVec.toNat_or, toNat_setWidth_shiftLeft, Nat.shiftLeft_or_distrib, ← Nat.shiftLeft_add, Nat.shiftLeft_zero]

/-- The fields do not overlap, so a packed pixel is the sum of its shifted fields (R69). -/
theorem packChannels_toNat (c : Channels) :
    (packChannels c).toNat
      = c.brightness.toNat * 2 ^ 24 + c.red.toNat * 2 ^ 16 + c.green.toNat * 2 ^ 8 + c.blue.toNat := by
  rw [packChannels_toNat_nested, ← Nat.shiftLeft_add_eq_or_of_lt c.red.isLt,
    ← Nat.shiftLeft_add_eq_or_of_lt c.green.isLt, ← Nat.shiftLeft_add_eq_or_of_lt c.blue.isLt]
  simp only [Nat.shiftLeft_eq]
  omega

/-- `unpack` reads red from bits 23:16 (R70). -/
theorem unpackPixel_red_toNat (v : Pixel) : (unpackPixel v).red.toNat = v.toNat / 2 ^ 16 % 256 := by
  rw [unpackPixel, BitVec.extractLsb'_toNat, Nat.shiftRight_eq_div_pow]
  rfl

/-- `unpack` reads green from bits 15:8 (R70). -/
theorem unpackPixel_green_toNat (v : Pixel) : (unpackPixel v).green.toNat = v.toNat / 2 ^ 8 % 256 := by
  rw [unpackPixel, BitVec.extractLsb'_toNat, Nat.shiftRight_eq_div_pow]
  rfl

/-- `unpack` reads blue from bits 7:0 (R70). -/
theorem unpackPixel_blue_toNat (v : Pixel) : (unpackPixel v).blue.toNat = v.toNat % 256 := by
  rw [unpackPixel, BitVec.extractLsb'_toNat]
  rfl

/-- `unpack` reads brightness from bits 28:24 (R70). -/
theorem unpackPixel_brightness_toNat (v : Pixel) : (unpackPixel v).brightness.toNat = v.toNat / 2 ^ 24 % 32 := by
  rw [unpackPixel, BitVec.extractLsb'_toNat, Nat.shiftRight_eq_div_pow]
  rfl

/-- Two records of fields are equal when their fields are equal numbers. -/
theorem channels_eq_of_toNat_eq {c d : Channels} (hred : c.red.toNat = d.red.toNat)
    (hgreen : c.green.toNat = d.green.toNat) (hblue : c.blue.toNat = d.blue.toNat)
    (hbrightness : c.brightness.toNat = d.brightness.toNat) : c = d := by
  cases c
  cases d
  simp_all only [BitVec.toNat_inj]

/-- `unpack` is a left inverse of `pack` (R71). -/
theorem unpackPixel_packChannels (c : Channels) : unpackPixel (packChannels c) = c := by
  apply channels_eq_of_toNat_eq
  case hred =>
    rw [unpackPixel_red_toNat, packChannels_toNat]
    omega
  case hgreen =>
    rw [unpackPixel_green_toNat, packChannels_toNat]
    omega
  case hblue =>
    rw [unpackPixel_blue_toNat, packChannels_toNat]
    omega
  case hbrightness =>
    rw [unpackPixel_brightness_toNat, packChannels_toNat]
    omega

/-- `pack` after `unpack` keeps bits 28:0 and clears bits 31:29 (R71). -/
theorem packChannels_unpackPixel_toNat (v : Pixel) : (packChannels (unpackPixel v)).toNat = v.toNat % 2 ^ 29 := by
  rw [packChannels_toNat, unpackPixel_red_toNat, unpackPixel_green_toNat, unpackPixel_blue_toNat,
    unpackPixel_brightness_toNat]
  omega

/-- A pixel comes back from `unpack` and `pack` exactly when its bits 31:29 are 0 (R71). -/
theorem packChannels_unpackPixel_eq_iff (v : Pixel) : packChannels (unpackPixel v) = v ↔ v.toNat < 2 ^ 29 := by
  rw [← BitVec.toNat_inj, packChannels_unpackPixel_toNat]
  exact Nat.mod_eq_iff_lt (by decide)

/-- An integer below `2 ^ w` loses nothing in a field of `w` bits (R57, R69). -/
theorem toNat_ofInt_of_lt {w : Nat} {x : Int} (h0 : 0 ≤ x) (hlt : x < 2 ^ w) : ((BitVec.ofInt w x).toNat : Int) = x := by
  rw [BitVec.toNat_ofInt, Int.toNat_of_nonneg (Int.emod_nonneg x (by positivity))]
  exact Int.emod_eq_of_lt h0 (by exact_mod_cast hlt)

/-- The first wire byte is the marker above the brightness field (R48, R49). -/
theorem marker_append_toNat (br : BitVec 5) : (Format.marker ++ br).toNat = 0xE0 + br.toNat := by
  rw [BitVec.toNat_append, ← Nat.shiftLeft_add_eq_or_of_lt br.isLt]
  rfl

/-- Settles O22: the value is `packChannels` of the operands, the sum of the shifted fields. -/
theorem packPlacesTheFields : Obligations.PackPlacesTheFields := by
  intro s r g b br
  exact ⟨packChannels ⟨r, g, b, br⟩, rfl, packChannels_toNat ⟨r, g, b, br⟩, packChannels_top ⟨r, g, b, br⟩⟩

/-- Settles O23: the answer is `unpackPixel v`, read field by field. -/
theorem unpackReadsTheFields : Obligations.UnpackReadsTheFields := by
  intro s v
  exact ⟨unpackPixel v, rfl, unpackPixel_brightness_toNat v, unpackPixel_red_toNat v, unpackPixel_green_toNat v,
    unpackPixel_blue_toNat v⟩

/-- Settles O24: `unpack` undoes `pack` on fields, and integers in range lose nothing in becoming fields; the other
direction clears bits 31:29. -/
theorem packUnpackRoundTrip : Obligations.PackUnpackRoundTrip := by
  refine ⟨fun r g b br hr hr' hg hg' hb hb' hbr hbr' => ?_, packChannels_unpackPixel_eq_iff⟩
  rw [packOperands, unpackPixel_packChannels]
  exact ⟨toNat_ofInt_of_lt hr (by omega), toNat_ofInt_of_lt hg (by omega), toNat_ofInt_of_lt hb (by omega),
    toNat_ofInt_of_lt hbr (by omega)⟩

/-- Settles O25: the four bytes of `wireBytes v`, the marker above brightness first. -/
theorem encodeAnswersTheWireWord : Obligations.EncodeAnswersTheWireWord := by
  intro s v
  refine ⟨Format.marker ++ (unpackPixel v).brightness, (unpackPixel v).blue, (unpackPixel v).green, (unpackPixel v).red,
    rfl, ?_, unpackPixel_blue_toNat v, unpackPixel_green_toNat v, unpackPixel_red_toNat v⟩
  rw [marker_append_toNat, unpackPixel_brightness_toNat]

end Sys2Proof.Machine
end

section
/-! PROOFS. The transmission operations: each performs its trace, which has no PWR event, and leaves DATA and CLK at the
trace's last levels (R82 to R88). -/

namespace Sys2Proof.Machine

/-! The traces as written in the spec, and the levels they leave. -/

/-- Repeating a list is flattening its copies (R6). -/
theorem rep_eq_flatten_replicate {α : Type} (n : Nat) (l : List α) : rep n l = (List.replicate n l).flatten := by
  induction n with
  | zero => rfl
  | succ n ih => rw [rep, ih, List.replicate_succ, List.flatten_cons]

theorem rep_add {α : Type} (m n : Nat) (l : List α) : rep (m + n) l = rep m l ++ rep n l := by
  simp only [rep_eq_flatten_replicate, List.replicate_add, List.flatten_append]

/-- Repeating a repetition multiplies the counts. -/
theorem rep_rep {α : Type} (n k : Nat) (l : List α) : rep n (rep k l) = rep (k * n) l := by
  induction n with
  | zero => rfl
  | succ n ih => rw [rep, ih, Nat.mul_succ, Nat.add_comm, rep_add]

/-- A list that ends with the line at the level it began with does so however often it is repeated. -/
theorem levelAfter_rep_of_fixed {l : Line} {v : Option Bool} {es : List LineEvent} (h : levelAfter l v es = v)
    (n : Nat) : levelAfter l v (rep n es) = v := by
  induction n with
  | zero => rfl
  | succ n ih => rw [rep, levelAfter_append, h, ih]

/-- A list that leaves the line at one level whatever it was before does so when repeated at least once. -/
theorem levelAfter_rep {l : Line} {x : Option Bool} {es : List LineEvent} (h : ∀ v, levelAfter l v es = x) {n : Nat}
    (hn : 1 ≤ n) (v : Option Bool) : levelAfter l v (rep n es) = x := by
  obtain ⟨k, rfl⟩ := Nat.exists_eq_add_of_le' hn
  rw [rep, levelAfter_append, h v, levelAfter_rep_of_fixed (h x)]

/-- The bit cells of a byte are those of its bits from 7 down to 0 (R83). -/
theorem writeByteTrace_eq_flatMap (b : Byte) :
    writeByteTrace b =
      [7, 6, 5, 4, 3, 2, 1, 0].flatMap fun k => [⟨.data, b.getLsbD k⟩, ⟨.clk, true⟩, ⟨.clk, false⟩] := rfl

/-- A byte leaves DATA at its bit 0, the last one sent (R83). -/
theorem levelAfter_data_writeByte (b : Byte) (v : Option Bool) :
    levelAfter .data v (writeByteTrace b) = some (b.getLsbD 0) := rfl

/-- A byte leaves CLK low (R83). -/
theorem levelAfter_clk_writeByte (b : Byte) (v : Option Bool) :
    levelAfter .clk v (writeByteTrace b) = some false := rfl

/-- The preamble is `8n` zero bit cells (R85). -/
theorem preambleTrace_eq_rep_bitCell (n : Nat) : preambleTrace n = rep (8 * n) (bitCell false) := by
  have hbyte : writeByteTrace Format.preambleByte = rep 8 (bitCell false) := by decide
  rw [preambleTrace, hbyte, rep_rep, Format.preambleBytes]

/-- The preamble has no PWR event. -/
theorem preambleTrace_no_pwr (n : Nat) : ∀ e ∈ preambleTrace n, e.line ≠ .pwr :=
  fun e he => writeByteTrace_no_pwr Format.preambleByte e (mem_rep he)

/-- The latch is the end of every frame, and so has no PWR event. -/
theorem latchTrace_no_pwr : ∀ e ∈ latchTrace, e.line ≠ .pwr :=
  fun e he => renderTrace_no_pwr 0 [] e (List.mem_append_right _ he)

/-! Performing a trace. -/

/-- Performing a trace without a PWR event writes the levels of DATA and CLK, the history and the driver's count, and
nothing else (R17, R80). -/
theorem performAll_of_no_pwr {es : List LineEvent} {s : State} {n : Nat} {data clk : Option Bool}
    (hlen : es.length = n) (hdriver : s.driver.completes n = true) (hpwr : ∀ e ∈ es, e.line ≠ .pwr)
    (hdata : levelAfter .data s.levelData es = data) (hclk : levelAfter .clk s.levelClk es = clk) :
    performAll es s = .next
      { s with levelData := data, levelClk := clk, history := s.history ++ es, driver := s.driver.afterCalls n } := by
  subst hlen hdata hclk
  rw [performAll_completes es s hdriver, State.performed, levelAfter_of_not_mem .pwr s.levelPwr es hpwr]

/-- Settles O28: CLOCKPULSE performs its two events, neither of them on PWR or DATA. -/
theorem clockPulseIsHighThenLow : Obligations.ClockPulseIsHighThenLow := by
  intro s hdriver
  exact performAll_of_no_pwr (es := clockPulseTrace) rfl hdriver clockPulseTrace_no_pwr rfl rfl

/-- Settles O29: WRITEBYTE performs the bit cells of bits 7 to 0, and the last cell gives the levels. -/
theorem writeByteSendsBitSevenFirst : Obligations.WriteByteSendsBitSevenFirst := by
  intro s b hdriver
  rw [← writeByteTrace_eq_flatMap b]
  exact performAll_of_no_pwr (writeByteTrace_length b) hdriver (writeByteTrace_no_pwr b)
    (levelAfter_data_writeByte b _) (levelAfter_clk_writeByte b _)

/-- Settles O30: PREAMBLE performs one zero byte for each of at least one light, which is `8N` zero bit cells. -/
theorem preambleSendsOneZeroBytePerLight : Obligations.PreambleSendsOneZeroBytePerLight := by
  intro s hN hdriver
  have hcells : (List.replicate (8 * s.N) [⟨.data, false⟩, ⟨.clk, true⟩, ⟨.clk, false⟩]).flatten = preambleTrace s.N := by
    rw [preambleTrace_eq_rep_bitCell, rep_eq_flatten_replicate, bitCell]
  rw [hcells]
  exact performAll_of_no_pwr (preambleTrace_length s.N) hdriver (preambleTrace_no_pwr s.N)
    (levelAfter_rep (levelAfter_data_writeByte Format.preambleByte) hN _)
    (levelAfter_rep (levelAfter_clk_writeByte Format.preambleByte) hN _)

/-- Settles O32: LATCH performs DATA low and the repeated pulse, which leave DATA and CLK low. -/
theorem latchIsDataLowThenThirtySixPulses : Obligations.LatchIsDataLowThenThirtySixPulses := by
  intro s hdriver
  have hpulses : (List.replicate 36 [⟨.clk, true⟩, ⟨.clk, false⟩]).flatten = rep Format.latchPulses clockPulseTrace :=
    (rep_eq_flatten_replicate 36 clockPulseTrace).symm
  rw [hpulses]
  exact performAll_of_no_pwr latchTrace_length hdriver latchTrace_no_pwr (levelAfter_data_latch _)
    (levelAfter_clk_latch _)

/-- A frame of `n` lights has `120n + 73` events (R53). -/
theorem renderTrace_length_of_length_eq {n : Nat} {p : List Pixel} (h : p.length = n) :
    (renderTrace n p).length = 120 * n + 73 := by
  rw [renderTrace_length, h]
  omega

/-- Settles O33: RENDER_MICRO performs the frame of the buffer, and the latch that ends it leaves DATA and CLK low. -/
theorem renderPerformsOneFrame : Obligations.RenderPerformsOneFrame := by
  intro s p hbuf hlen hdriver
  have hexec : exec .renderMicro s = performAll (renderTrace s.N p) s := withBuffer_some hbuf
  rw [hexec]
  exact performAll_of_no_pwr (renderTrace_length_of_length_eq hlen) hdriver (renderTrace_no_pwr s.N p)
    (levelAfter_data_render _ s.N p) (levelAfter_clk_render _ s.N p)

end Sys2Proof.Machine
end

section
/-! PROOFS. Runs: pending events drain to the big-step view of the command in execution, also while the host holds its next
command (R19, R93), and a RENDER presented to an idle encoder sends its frame (R90, R105). -/

namespace Sys2Proof.Machine

/-! Write steps. -/

/-- A driver that completes some calls completes any fewer. -/
theorem LineDriver.completes_of_le {d : LineDriver} {m k : Nat} (hmk : m ≤ k) (h : d.completes k = true) :
    d.completes m = true := by
  cases d with
  | ready => rfl
  | hangsAfter j =>
    rw [LineDriver.completes, decide_eq_true_eq] at h ⊢
    omega

/-- The state after a Write step that completes: its event performed, the rest pending, and the response delivered with the
last event (R93 (2), (3)). -/
def State.afterWrite (s : State) (e : LineEvent) (rest : List LineEvent) : State :=
  { s.performed [e] with
    pending := rest
    responses := if rest.isEmpty then s.responses ++ [.ok] else s.responses }

theorem writeStep_completes (e : LineEvent) (rest : List LineEvent) {s : State} (h : s.driver.completes 1 = true) :
    writeStep e rest s = .next (s.afterWrite e rest) := by
  rw [writeStep, perform_completes e s h]
  cases rest <;> rfl

/-- While a command is in execution, a host that has no move left or holds a command lets the engine go on (R93). -/
theorem step_of_busy {s : State} (hbusy : s.pending ≠ []) (hhost : s.host = [] ∨ ∃ w moves, s.host = .command w :: moves) :
    step s = advance s := by
  have hready : s.ready = false := by simp [State.ready, hbusy]
  obtain hnil | ⟨w, moves, hcmd⟩ := hhost
  · rw [step, hnil]
  · rw [step, hcmd]
    simp [acceptOrAdvance, hready]

/-- Such a step is a Write step of the first pending event (R93 (2)). -/
theorem step_of_pending {s : State} {e : LineEvent} {rest : List LineEvent} (hp : s.pending = e :: rest)
    (hdriver : s.driver.completes 1 = true) (hhost : s.host = [] ∨ ∃ w moves, s.host = .command w :: moves) :
    step s = .next (s.afterWrite e rest) := by
  rw [step_of_busy (by simp [hp]) hhost, advance, hp]
  exact writeStep_completes e rest hdriver

/-! The big-step view. -/

/-- With nothing pending the big step has nothing to do. -/
theorem State.completed_of_pending_nil {s : State} (h : s.pending = []) : s.completed = s := by
  cases s
  subst h
  simp [State.completed, LineDriver.afterCalls_zero]

/-- The big step of a command in execution performs its events and delivers its response (R19). -/
theorem State.completed_of_pending_ne_nil {s : State} (h : s.pending ≠ []) :
    s.completed = ((s.performed s.pending).withPending []).respond .ok := by
  rw [State.completed, if_neg (by simpa using h)]
  rfl

/-- A Write step leaves the big step of the command in execution where it was. -/
theorem State.completed_afterWrite {s : State} {e : LineEvent} {rest : List LineEvent} (hp : s.pending = e :: rest)
    (hdriver : s.driver.completes (rest.length + 1) = true) : (s.afterWrite e rest).completed = s.completed := by
  obtain ⟨-, -, hcalls⟩ := LineDriver.call_of_completes hdriver
  simp only [State.completed, State.afterWrite, State.performed, hp, List.length_cons, ← hcalls]
  cases rest <;> simp

/-- Pending events drain: as many steps as there are events reach the big step's state (R19, R155), also while the host
holds its next command. -/
theorem run_pending {es : List LineEvent} {s : State} (hp : s.pending = es) (hdriver : s.driver.completes es.length = true)
    (hhost : s.host = [] ∨ ∃ w moves, s.host = .command w :: moves) : run es.length s = .next s.completed := by
  induction es generalizing s with
  | nil => rw [State.completed_of_pending_nil hp]; rfl
  | cons e rest ih =>
    obtain ⟨-, hrest, -⟩ := LineDriver.call_of_completes hdriver
    have hone : s.driver.completes 1 = true := LineDriver.completes_of_le (Nat.le_add_left 1 rest.length) hdriver
    rw [List.length_cons, run, step_of_pending hp hone hhost, ← State.completed_afterWrite hp hdriver]
    exact ih (s := s.afterWrite e rest) rfl hrest hhost

/-! RENDER. -/

/-- A ready engine takes the command the host presents (R93 (1), R100 (1)). -/
theorem step_of_ready {s : State} {w : CmdWord} {moves : List HostMove} (hready : s.ready = true)
    (hhost : s.host = .command w :: moves) : step s = exec (decode w) (s.withHost moves) := by
  rw [step, hhost]
  simp [acceptOrAdvance, hready]

/-- RENDER at a ready, initialized encoder has the frame of its buffer to send (R105). -/
theorem exec_render_of_ready {s : State} {p : List Pixel} (hready : s.ready = true) (hinit : s.lifecycle = .initialized)
    (hbuf : s.buf = some p) : exec .render s = .next (s.withPending (renderTrace s.N p)) := by
  rw [exec, execRender, whenAccepted_ready hready, whenInitialized_initialized hinit, withBuffer_some hbuf]

/-- The state after a RENDER has run to completion: the frame performed and answered OK, the host left with these moves
(R105, R107). -/
def State.afterRender (s : State) (p : List Pixel) (moves : List HostMove) : State :=
  ((s.withHost moves).performed (renderTrace s.N p)).respond .ok

/-- A RENDER presented to an idle, initialized encoder runs to completion in a step and one more per event, when the host's
next move is no wait and no reset (R107). -/
theorem run_render {s : State} {p : List Pixel} {w : CmdWord} {moves : List HostMove} (hready : s.ready = true)
    (hinit : s.lifecycle = .initialized) (hbuf : s.buf = some p) (hlen : p.length = s.N)
    (hdriver : s.driver.completes (120 * s.N + 73) = true) (hw : decode w = .render)
    (hhost : s.host = .command w :: moves) (hmoves : moves = [] ∨ ∃ v later, moves = .command v :: later) :
    run (1 + (120 * s.N + 73)) s = .next (s.afterRender p moves) := by
  obtain ⟨hpending, -⟩ := (State.ready_iff s).mp hready
  have haccept : step s = .next ((s.withHost moves).withPending (renderTrace s.N p)) := by
    rw [step_of_ready hready hhost, hw]
    exact exec_render_of_ready (s := s.withHost moves) hready hinit hbuf
  have hdrain : run (120 * s.N + 73) ((s.withHost moves).withPending (renderTrace s.N p))
      = .next ((s.withHost moves).withPending (renderTrace s.N p)).completed := by
    rw [← renderTrace_length_of_length_eq hlen] at hdriver ⊢
    exact run_pending (s := (s.withHost moves).withPending _) rfl hdriver hmoves
  have hbigStep : ((s.withHost moves).withPending (renderTrace s.N p)).completed = s.afterRender p moves := by
    rw [State.completed_of_pending_ne_nil (renderTrace_ne_nil s.N p), State.afterRender]
    simp [State.performed, State.withPending, State.withHost, State.respond, hpending]
  rw [run_add, run_one, haccept, ← hbigStep]
  exact hdrain

/-- Settles O58: each RENDER appends the frame of the buffer, and leaves the encoder as the next one needs it: ready,
initialized, with the same buffer. -/
theorem twoRendersSendTheSameEvents : Obligations.TwoRendersSendTheSameEvents := by
  intro s p w hpending hfault hinit hbuf hlen hdriver hw hhost
  have hready : s.ready = true := (State.ready_iff s).mpr ⟨hpending, hfault⟩
  have hcompletes : s.driver.completes (120 * s.N + 73) = true := by rw [hdriver]; rfl
  have hcompletes' : (s.driver.afterCalls (renderTrace s.N p).length).completes (120 * s.N + 73) = true := by
    rw [hdriver]; rfl
  have hfirst : run (1 + (120 * s.N + 73)) s = .next (s.afterRender p [.command w]) :=
    run_render hready hinit hbuf hlen hcompletes hw hhost (.inr ⟨w, [], rfl⟩)
  have hsecond : run (1 + (120 * s.N + 73)) (s.afterRender p [.command w])
      = .next ((s.afterRender p [.command w]).afterRender p []) :=
    run_render (s := s.afterRender p [.command w]) hready hinit hbuf hlen hcompletes' hw rfl (.inl rfl)
  refine ⟨(s.afterRender p [.command w]).afterRender p [], renderTrace s.N p, ?_, renderTrace_length_of_length_eq hlen,
    rfl, hbuf, List.append_assoc s.responses [.ok] [.ok]⟩
  rw [Nat.two_mul, run_add, hfirst]
  exact hsecond

end Sys2Proof.Machine
end

section
/-! PROOFS. Between two resets the events performed and still pending are one growing list, and the first of them is
power-enable high: only INIT can start it, and INIT's trace starts with that event (R93, R102, R144). -/

namespace Sys2Proof.Machine

/-- The events of the commands accepted so far, oldest first: those performed and those still pending (R93). -/
def State.issued (s : State) : List LineEvent :=
  s.history ++ s.pending

/-- The first event issued is power-enable high, or no event can have been issued yet: no INIT has been accepted (R144). -/
def State.PowerLeads (s : State) : Prop :=
  s.issued.head? = some ⟨.pwr, true⟩ ∨ (s.lifecycle = .uninitialized ∧ s.issued = [])

/-- The host has no reset among its moves, so that what follows belongs to the same encoder's life (R140). -/
def State.ResetFree (s : State) : Prop :=
  ∀ n, .reset n ∉ s.host

/-! What a step does to the issued events. -/

/-- A Write step moves its event from the pending ones to the performed ones (R93 (2)). -/
theorem writeStep_issued {e : LineEvent} {rest : List LineEvent} {s t : State} (hp : s.pending = e :: rest)
    (h : writeStep e rest s = .next t) : t.issued = s.issued ∧ t.lifecycle = s.lifecycle ∧ t.host = s.host := by
  obtain ⟨d, -, rfl⟩ := writeStep_next h
  split <;> simp [State.issued, hp]

/-- Of itself the engine issues no event and takes no move of the host. -/
theorem advance_issued {s t : State} (h : advance s = .next t) :
    t.issued = s.issued ∧ t.lifecycle = s.lifecycle ∧ t.host = s.host := by
  obtain ⟨-, rfl⟩ | ⟨e, rest, hp, hw⟩ := advance_cases h
  · exact ⟨rfl, rfl, rfl⟩
  · exact writeStep_issued hp hw

/-- A command that is accepted performs no event itself. It issues none either, or it is INIT and issues power-enable high
first, or INIT has come before it (R102, R104 to R106, R118). -/
theorem exec_decode_cases {w : CmdWord} {s t : State} (hready : s.ready = true) (h : exec (decode w) s = .next t) :
    t.host = s.host ∧ t.history = s.history
      ∧ ((t.lifecycle = s.lifecycle ∧ t.pending = s.pending) ∨ t.pending.head? = some ⟨.pwr, true⟩
        ∨ s.lifecycle = .initialized) := by
  obtain ⟨d, c, hw⟩ | ⟨i, r, g, b, br, hw⟩ | hw | hw := decode_cases w <;> rw [hw] at h
  case inl =>
    obtain ⟨-, rfl⟩ := execInit_next hready h
    exact ⟨rfl, rfl, .inr (.inl rfl)⟩
  case inr.inl =>
    obtain ⟨-, hraise⟩ | ⟨-, bound, -, rfl⟩ | ⟨-, -, p, -, rfl⟩ := execSetlight_next hready h
    · cases hraise; exact ⟨rfl, rfl, .inl ⟨rfl, rfl⟩⟩
    · exact ⟨rfl, rfl, .inl ⟨rfl, rfl⟩⟩
    · exact ⟨rfl, rfl, .inl ⟨rfl, rfl⟩⟩
  case inr.inr.inl =>
    obtain ⟨-, hraise⟩ | ⟨hinit, p, -, rfl⟩ := execRender_next hready h
    · cases hraise; exact ⟨rfl, rfl, .inl ⟨rfl, rfl⟩⟩
    · exact ⟨rfl, rfl, .inr (.inr hinit)⟩
  case inr.inr.inr =>
    obtain ⟨-, hraise⟩ | ⟨hinit, p, -, rfl⟩ := execResetall_next hready h
    · cases hraise; exact ⟨rfl, rfl, .inl ⟨rfl, rfl⟩⟩
    · exact ⟨rfl, rfl, .inr (.inr hinit)⟩

/-! What every step without a reset keeps. -/

theorem State.PowerLeads.of_issued_eq {s t : State} (hs : s.PowerLeads) (hissued : t.issued = s.issued)
    (hlife : t.lifecycle = s.lifecycle) : t.PowerLeads := by
  rwa [State.PowerLeads, hissued, hlife]

/-- More events may follow a first one that is power-enable high. -/
theorem State.PowerLeads.of_history_head {t : State} (h : t.history.head? = some ⟨.pwr, true⟩) : t.PowerLeads :=
  .inl (by simp [State.issued, h])

/-- An accepted command keeps power-enable first. -/
theorem State.PowerLeads.exec_decode {w : CmdWord} {s t : State} (hs : s.PowerLeads) (hready : s.ready = true)
    (h : exec (decode w) s = .next t) : t.PowerLeads := by
  obtain ⟨hpending, -⟩ := (State.ready_iff s).mp hready
  have hperformed : s.issued = s.history := by simp [State.issued, hpending]
  obtain ⟨-, hhistory, hcase⟩ := exec_decode_cases hready h
  obtain hhead | ⟨huninit, hnone⟩ := hs
  · exact .of_history_head (by rw [hhistory, ← hperformed, hhead])
  · obtain ⟨hlife, hsame⟩ | hfirst | hinit := hcase
    · exact .inr ⟨by rw [hlife, huninit], by rw [State.issued, hhistory, hsame, ← State.issued, hnone]⟩
    · exact .inl (by rw [State.issued, hhistory, ← hperformed, hnone, List.nil_append, hfirst])
    · rw [huninit] at hinit; cases hinit

/-- While the host does not reset, every step keeps power-enable first. -/
theorem powerLeads_step {s t : State} (hs : s.PowerLeads ∧ s.ResetFree) (h : step s = .next t) :
    t.PowerLeads ∧ t.ResetFree := by
  obtain ⟨hlead, hfree⟩ := hs
  obtain ⟨n, rest, hhost, -, -⟩ | ⟨w, rest, hhost, hready, hexec⟩ | ⟨moves, hhost, hadvance⟩ := step_cases h
  · exact absurd (by simp [hhost]) (hfree n)
  · obtain ⟨hmoves, -, -⟩ := exec_decode_cases (s := s.withHost rest) hready hexec
    refine ⟨State.PowerLeads.exec_decode (s := s.withHost rest) hlead hready hexec, fun n hn => hfree n ?_⟩
    rw [hmoves, State.withHost_host] at hn
    rw [hhost]
    exact .tail _ hn
  · obtain ⟨hissued, hlife, hmoves⟩ := advance_issued hadvance
    refine ⟨hlead.of_issued_eq hissued hlife, fun n hn => hfree n ?_⟩
    rw [hmoves, State.withHost_host] at hn
    obtain hhost | hhost := hhost <;> rw [hhost]
    · exact hn
    · exact .tail _ hn

/-! Runs. -/

/-- What every step keeps, every run keeps. -/
theorem run_keeps {P : State → Prop} (hstep : ∀ {s t : State}, P s → step s = .next t → P t) {k : Nat} {s t : State}
    (hs : P s) (h : run k s = .next t) : P t := by
  induction k generalizing s with
  | zero => cases h; exact hs
  | succ k ih =>
    rw [run] at h
    split at h
    next u hu => exact ih (hstep hs hu) h
    · cases h
    · cases h

/-- What has been performed is the front of what has been issued, so its first event is power-enable high. -/
theorem State.PowerLeads.history_nil_or_head {s : State} (hs : s.PowerLeads) :
    s.history = [] ∨ s.history.head? = some ⟨.pwr, true⟩ := by
  obtain hhead | ⟨-, hnone⟩ := hs
  · cases hh : s.history with
    | nil => exact .inl rfl
    | cons e es => rw [State.issued, hh] at hhead; exact .inr hhead
  · exact .inl (List.append_eq_nil_iff.mp hnone).1

/-- Settles O53: a new encoder has issued no event and INIT has not been accepted, and every step without a reset keeps
power-enable the first event issued. -/
theorem powerEnableComesFirst : Obligations.PowerEnableComesFirst := by
  intro n pin moves driver k t hfree hrun
  have hstart : State.PowerLeads { State.new n pin with host := moves, driver := driver } := .inr ⟨rfl, rfl⟩
  obtain ⟨hlead, -⟩ := run_keeps powerLeads_step ⟨hstart, hfree⟩ hrun
  exact hlead.history_nil_or_head

end Sys2Proof.Machine
end

section
/-! PROOFS. The ports' codecs: the command port (R55 to R57, R63), the numbering of a transfer's bits, the response port
(R58, R117), the line-driver port (R128), and the lines of a program's text (R61). -/

namespace Sys2Proof

/-! The command port. -/

/-- What the decoder reads for each of the four codes of `cmd_op` (R56). -/
theorem decode_of_op_init {w : CmdWord} (h : w.op = 0b00#2) : decode w = .init w.a0 w.a1 := by
  simp [decode, h]

theorem decode_of_op_setlight {w : CmdWord} (h : w.op = 0b01#2) :
    decode w = .setlight w.a0.toInt w.a1.toInt w.a2.toInt w.a3.toInt w.a4.toInt := by
  simp [decode, h]

theorem decode_of_op_render {w : CmdWord} (h : w.op = 0b10#2) : decode w = .render := by
  simp [decode, h]

theorem decode_of_op_resetall {w : CmdWord} (h : w.op = 0b11#2) : decode w = .resetall := by
  simp [decode, h]

/-- The commands are the instructions that have a transfer (R63). -/
theorem encode_isSome (i : Instr) : (encode i).isSome = i.isCommand := by
  cases i <;> rfl

theorem encode_eq_none_of_not_isCommand {i : Instr} (h : i.isCommand = false) : encode i = none := by
  rw [← Option.isNone_iff_eq_none, ← Option.not_isSome, encode_isSome, h, Bool.not_false]

/-- The four commands (R63, R108). -/
theorem isCommand_cases {i : Instr} (h : i.isCommand = true) :
    (∃ d c, i = .init d c) ∨ (∃ x r g b br, i = .setlight x r g b br) ∨ i = .render ∨ i = .resetall := by
  cases i with
  | init d c => exact .inl ⟨d, c, rfl⟩
  | setlight x r g b br => exact .inr (.inl ⟨x, r, g, b, br, rfl⟩)
  | render => exact .inr (.inr (.inl rfl))
  | resetall => exact .inr (.inr (.inr rfl))
  | _ => cases h

/-- What the decoder gives is a command (R63). -/
theorem decode_isCommand (w : CmdWord) : (decode w).isCommand = true := by
  obtain ⟨d, c, hw⟩ | ⟨i, r, g, b, br, hw⟩ | hw | hw := Machine.decode_cases w <;> rw [hw] <;> rfl

/-- Settles O2: a command's transfer is read back by the four opcode lemmas, which look at the operand ports the command
uses and at no other. -/
theorem decodeOfEncodeIsTheInstruction : Obligations.DecodeOfEncodeIsTheInstruction := by
  intro i hwf
  cases hcmd : i.isCommand with
  | false => exact .inl ⟨rfl, encode_eq_none_of_not_isCommand hcmd⟩
  | true =>
    refine .inr ⟨rfl, ?_⟩
    obtain ⟨d, c, rfl⟩ | ⟨x, r, g, b, br, rfl⟩ | rfl | rfl := isCommand_cases hcmd
    · refine ⟨_, rfl, rfl, fun v hop hports _ => ?_⟩
      obtain ⟨h0, h1⟩ := hports d c rfl
      rw [decode_of_op_init hop, h0, h1]
    · obtain ⟨-, hread⟩ := Laws.CommandCodec.setlight x r g b br hwf
      refine ⟨_, rfl, hread, fun v hop _ hports => ?_⟩
      obtain ⟨h0, h1, h2, h3, h4⟩ := hports x r g b br rfl
      rw [decode_of_op_setlight hop, h0, h1, h2, h3, h4, ← hread, decode_of_op_setlight rfl]
    · exact ⟨_, rfl, rfl, fun v hop _ _ => decode_of_op_render hop⟩
    · exact ⟨_, rfl, rfl, fun v hop _ _ => decode_of_op_resetall hop⟩

/-- Settles O1: the decoder evaluated on the five transfers. -/
theorem opcodeMapDecodes : Obligations.OpcodeMapDecodes := by
  unfold Obligations.OpcodeMapDecodes
  decide

/-! The numbering of a transfer's bits. -/

/-- The binary digits of a number from bit `k` up are those of its quotient by `2 ^ k`. -/
theorem ofNat_shiftRight_eq {w k n : Nat} {x : BitVec w} (h : n / 2 ^ k % 2 ^ w = x.toNat) :
    BitVec.ofNat w (n >>> k) = x := by
  rw [← BitVec.toNat_inj, BitVec.toNat_ofNat, Nat.shiftRight_eq_div_pow, h]

/-- A transfer's ports are read back from its number one by one: each is a group of digits of the number, above the digits
of the ports before it. -/
theorem CmdWord.ofBits_toBits (w : CmdWord) : CmdWord.ofBits w.toBits = w := by
  obtain ⟨op, a0, a1, a2, a3, a4⟩ := w
  have hop := op.isLt
  have h0 := a0.isLt
  have h1 := a1.isLt
  have h2 := a2.isLt
  have h3 := a3.isLt
  have h4 := a4.isLt
  simp only [CmdWord.ofBits, CmdWord.toBits, CmdWord.mk.injEq]
  refine ⟨?_, ofNat_shiftRight_eq ?_, ofNat_shiftRight_eq ?_, ofNat_shiftRight_eq ?_, ofNat_shiftRight_eq ?_,
    ofNat_shiftRight_eq ?_⟩
  · rw [← BitVec.toNat_inj, BitVec.toNat_ofNat]
    omega
  all_goals omega

theorem CmdWord.toBits_lt (w : CmdWord) : w.toBits < 2 ^ 162 := by
  have hop := w.op.isLt
  have h0 := w.a0.isLt
  have h1 := w.a1.isLt
  have h2 := w.a2.isLt
  have h3 := w.a3.isLt
  have h4 := w.a4.isLt
  rw [CmdWord.toBits]
  omega

/-- Settles O3: every port is a group of digits of the number, and no digit is above the last port's. -/
theorem transferBitsRoundTrip : Obligations.TransferBitsRoundTrip :=
  fun w => ⟨w.ofBits_toBits, w.toBits_lt⟩

/-! The response port. -/

/-- No bound has a code above 4 (R117, R59). -/
theorem Bound.code_lt (b : Bound) : b.code.toNat < 5 := by
  cases b <;> decide

/-- A bound is read back from its code (R117). -/
theorem decodeBound_code (b : Bound) : decodeBound b.code = .ok b := by
  cases b <;> rfl

/-- Neither status 3 nor a bound code above 4 is ever produced (R59). -/
theorem encodeResponse_codes (k : Nat) (r : Response) :
    (encodeResponse k r).status ≠ 3 ∧ (encodeResponse k r).bound.toNat < 5 := by
  cases r with
  | ok => exact ⟨by simp [encodeResponse], boundNotMeaningful_lt k⟩
  | invalidArgument i b => exact ⟨by simp [encodeResponse], b.code_lt⟩
  | preconditionViolation => exact ⟨by simp [encodeResponse], boundNotMeaningful_lt k⟩

/-- An InvalidArgument is read back with its index and its bound, when the index fits the port (R58). -/
theorem decodeResponse_invalidArgument (k : Nat) {i : Int} (b : Bound) (h : fitsPort i = true) :
    decodeResponse (encodeResponse k (.invalidArgument i b)) = .ok (.invalidArgument i b) := by
  simp [decodeResponse, encodeResponse, decodeBound_code, toInt_ofInt_of_fitsPort h, -BitVec.toInt_ofInt]

/-- Settles O4: the codes of each kind of response, and the round trip of the one that carries fields. -/
theorem responsePortRoundTrip : Obligations.ResponsePortRoundTrip := by
  intro k
  refine ⟨encodeResponse_codes k, rfl, rfl, rfl, rfl, fun i b hi => ⟨decodeResponse_invalidArgument k b hi, rfl, ?_⟩⟩
  cases b <;> rfl

/-! The line-driver port. -/

/-- The level is the one level bit (R128). -/
theorem ofBool_beq_one (v : Bool) : (BitVec.ofBool v == 1#1) = v := by
  cases v <;> rfl

/-- A request is read back as the call it stands for (R128). -/
theorem decodeEvent_encodeEvent (e : LineEvent) : decodeEvent (encodeEvent e) = .ok e := by
  obtain ⟨l, v⟩ := e
  cases l <;> simp [decodeEvent, encodeEvent, Line.code, ofBool_beq_one]

/-- Settles O5: each line's code is its own, and 3 is no line's. -/
theorem lineDriverPortRoundTrip : Obligations.LineDriverPortRoundTrip := by
  refine ⟨decodeEvent_encodeEvent, fun _ => rfl, fun _ => rfl, fun _ => rfl, fun w hline => ?_⟩
  simp [decodeEvent, hline]

/-- Settles O6: the parser and the assembler evaluated on the six lines. -/
theorem programLinesAssemble : Obligations.ProgramLinesAssemble := by
  unfold Obligations.ProgramLinesAssemble
  decide

end Sys2Proof
end

section
/-! PROOFS. Everything a step can do, as two relations with a constructor for each way: what an accepted command does
(R100 to R107), and what the engine and its host do in one step (R93, R140). -/

namespace Sys2Proof.Machine

/-! The acceptance of a command. -/

/-- What INIT writes when it is accepted: the pins bound, `N` zero cells, the encoder Initialized (R102). -/
def State.bound (s : State) (d c : Pin) : State :=
  { s with
    bindData := some d
    bindClock := some c
    buf := some (List.replicate s.N 0)
    lifecycle := .initialized }

/-- What a command does when it is accepted: one constructor for each outcome the command rules name. -/
inductive Accepts (s : State) : State → Prop
  /-- INIT (R102, R103). -/
  | init (d c : Pin) (hpins : pinsDistinct d c s.powerPin = true) :
      Accepts s ((s.bound d c).withPending (initTrace s.N))
  /-- SETLIGHT, RENDER or RESETALL before INIT (R118). -/
  | violate (huninit : s.lifecycle = .uninitialized) :
      Accepts s ({ s with fault := some .preconditionViolation }.respond .preconditionViolation)
  /-- SETLIGHT with an operand out of range (R104, R120). -/
  | reject (i : Int) (bound : Bound) : Accepts s (s.respond (.invalidArgument i bound))
  /-- SETLIGHT with its operands in range (R104). -/
  | store (p : List Pixel) (i : Nat) (c : Channels) (hbuf : s.buf = some p) :
      Accepts s ((s.withBuf (p.set i (packChannels c))).respond .ok)
  /-- RENDER (R105). -/
  | send (p : List Pixel) (hinit : s.lifecycle = .initialized) (hbuf : s.buf = some p) :
      Accepts s (s.withPending (renderTrace s.N p))
  /-- RESETALL (R106). -/
  | sendDark (p : List Pixel) (hinit : s.lifecycle = .initialized) (hbuf : s.buf = some p) :
      Accepts s ((s.withBuf (clearCells p)).withPending (renderTrace s.N (clearCells p)))

/-- A command that a ready engine runs is accepted in one of these ways. -/
theorem accepts_of_exec {i : Instr} {s t : State} (hcmd : i.isCommand = true) (hready : s.ready = true)
    (h : exec i s = .next t) : Accepts s t := by
  obtain ⟨d, c, rfl⟩ | ⟨x, r, g, b, br, rfl⟩ | rfl | rfl := isCommand_cases hcmd
  · obtain ⟨hpins, rfl⟩ := execInit_next hready h
    exact .init d c hpins
  · obtain ⟨huninit, hraise⟩ | ⟨-, bound, -, rfl⟩ | ⟨-, -, p, hbuf, rfl⟩ := execSetlight_next hready h
    · cases hraise
      exact .violate huninit
    · exact .reject x bound
    · exact .store p x.toNat (channelsOf r g b br) hbuf
  · obtain ⟨huninit, hraise⟩ | ⟨hinit, p, hbuf, rfl⟩ := execRender_next hready h
    · cases hraise
      exact .violate huninit
    · exact .send p hinit hbuf
  · obtain ⟨huninit, hraise⟩ | ⟨hinit, p, hbuf, rfl⟩ := execResetall_next hready h
    · cases hraise
      exact .violate huninit
    · exact .sendDark p hinit hbuf

/-- INIT always has events to send (R102). -/
theorem initTrace_ne_nil (n : Nat) : initTrace n ≠ [] := List.cons_ne_nil _ _

/-- An accepted command leaves the encoder's constants, the environment, the lines and the history alone (R93 (1)). -/
theorem Accepts.frame {s t : State} (h : Accepts s t) :
    t.N = s.N ∧ t.powerPin = s.powerPin ∧ t.host = s.host ∧ t.history = s.history
      ∧ t.levelPwr = s.levelPwr ∧ t.levelData = s.levelData ∧ t.levelClk = s.levelClk := by
  cases h <;> exact ⟨rfl, rfl, rfl, rfl, rfl, rfl, rfl⟩

/-- An accepted command responds at once and has nothing to send, or has events to send and responds later (R100 (4)). -/
theorem Accepts.response {s t : State} (h : Accepts s t) :
    (t.pending = s.pending ∧ ∃ r, t.responses = s.responses ++ [r]) ∨ (t.pending ≠ [] ∧ t.responses = s.responses) := by
  cases h with
  | init d c hpins => exact .inr ⟨initTrace_ne_nil s.N, rfl⟩
  | violate huninit => exact .inl ⟨rfl, _, rfl⟩
  | reject i bound => exact .inl ⟨rfl, _, rfl⟩
  | store p i c hbuf => exact .inl ⟨rfl, _, rfl⟩
  | send p hinit hbuf => exact .inr ⟨renderTrace_ne_nil s.N p, rfl⟩
  | sendDark p hinit hbuf => exact .inr ⟨renderTrace_ne_nil s.N (clearCells p), rfl⟩

/-- No command takes an encoder out of Initialized (R13). -/
theorem Accepts.initialized {s t : State} (h : Accepts s t) (hinit : s.lifecycle = .initialized) :
    t.lifecycle = .initialized := by
  cases h with
  | init d c hpins => rfl
  | _ => exact hinit

/-- An accepted command keeps the buffer's form (R18, R20). -/
theorem Accepts.wf {s t : State} (h : Accepts s t) (hwf : Memory.wf s.N s.buf = true) : Memory.wf t.N t.buf = true := by
  cases h with
  | init d c hpins => exact Memory.wf_replicate s.N
  | violate huninit => exact hwf
  | reject i bound => exact hwf
  | store p i c hbuf => rw [hbuf] at hwf; exact Memory.wf_set hwf i c
  | send p hinit hbuf => exact hwf
  | sendDark p hinit hbuf => rw [hbuf] at hwf; exact Memory.wf_clearCells hwf

/-! A Write step. -/

section
variable (s : State) (e : LineEvent) (rest : List LineEvent)

@[simp] theorem State.afterWrite_history : (s.afterWrite e rest).history = s.history ++ [e] := rfl

theorem State.afterWrite_level (l : Line) :
    (s.afterWrite e rest).level l = if e.line = l then some e.level else s.level l := by
  cases l <;> rfl

/-- The response comes with the last event (R93 (3)). -/
theorem State.afterWrite_response :
    (s.afterWrite e rest).responses = s.responses
      ∨ (rest = [] ∧ (s.afterWrite e rest).responses = s.responses ++ [.ok]) := by
  cases rest with
  | nil => exact .inr ⟨rfl, rfl⟩
  | cons => exact .inl rfl

end

/-- A driver that completes the call being made completes one call. -/
theorem LineDriver.completes_one_of_call {d d' : LineDriver} (h : d.call = some d') : d.completes 1 = true := by
  cases d with
  | ready => rfl
  | hangsAfter k =>
    cases k with
    | zero => cases h
    | succ k => simp [LineDriver.completes]

/-- A Write step that answers a next state has performed its event. -/
theorem writeStep_eq_afterWrite {e : LineEvent} {rest : List LineEvent} {s t : State} (h : writeStep e rest s = .next t) :
    t = s.afterWrite e rest := by
  obtain ⟨d, hcall, -⟩ := writeStep_next h
  rw [writeStep_completes e rest (LineDriver.completes_one_of_call hcall)] at h
  cases h
  rfl

/-! A step. -/

/-- Everything a step that answers a next state can have done (R93, R100, R140). -/
inductive StepsTo (s : State) : State → Prop
  /-- The host resets. -/
  | reset (n : Int) (rest : List HostMove) (hhost : s.host = .reset n :: rest) (hn : legalLightCount n = true) :
      StepsTo s ((s.withHost rest).renewed n.toNat)
  /-- The engine accepts the command the host presents. -/
  | accept (rest : List HostMove) (t : State) (hready : s.ready = true) (haccepts : Accepts (s.withHost rest) t) :
      StepsTo s t
  /-- Nothing is pending and no command is taken. -/
  | idle (moves : List HostMove) (hpending : s.pending = []) : StepsTo s (s.withHost moves)
  /-- A Write step. -/
  | write (e : LineEvent) (rest : List LineEvent) (moves : List HostMove) (hpending : s.pending = e :: rest) :
      StepsTo s ((s.withHost moves).afterWrite e rest)

theorem stepsTo_of_step {s t : State} (h : step s = .next t) : StepsTo s t := by
  obtain ⟨n, rest, hhost, hn, rfl⟩ | ⟨w, rest, -, hready, hexec⟩ | ⟨moves, -, hadvance⟩ := step_cases h
  · exact .reset n rest hhost hn
  · exact .accept rest t hready (accepts_of_exec (decode_isCommand w) hready hexec)
  · obtain ⟨hpending, rfl⟩ | ⟨e, rest, hpending, hwrite⟩ := advance_cases hadvance
    · exact .idle moves hpending
    · rw [writeStep_eq_afterWrite hwrite]
      exact .write e rest moves hpending

/-- In a step that is no reset, the host's next move is no reset. -/
theorem State.host_ne_reset_of_not_resetting {s : State} {n : Int} {rest : List HostMove} (h : s.resetting = false) :
    s.host ≠ .reset n :: rest := by
  intro hhost
  rw [State.resetting, hhost] at h
  cases h

end Sys2Proof.Machine
end

section
/-! PROOFS. What every step keeps: the buffer's form, the invariant, the sticky flags; and what a step performs. -/

namespace Sys2Proof.Machine

/-! The buffer's form. -/

/-- Settles O50: every way of stepping keeps the form, the commands by `Accepts.wf`. -/
theorem everyStepKeepsTheBufferForm : Obligations.EveryStepKeepsTheBufferForm := by
  intro s t hwf h
  cases stepsTo_of_step h with
  | reset n rest hhost hn => exact Memory.wf_new n.toNat s.powerPin
  | accept rest _ hready haccepts => exact haccepts.wf hwf
  | idle moves hpending => exact hwf
  | write e rest moves hpending => exact hwf

/-! The invariant. -/

/-- The legal light counts (R10, R15). -/
theorem legalLightCount_iff (n : Int) : legalLightCount n = true ↔ 1 ≤ n ∧ n ≤ Config.maxLights := by
  simp [legalLightCount]

/-- A new encoder of a legal count meets the invariant, whatever its host, its driver and what was observed before. -/
theorem inv_new {n : Nat} (hn : legalLightCount n = true) (pin : Pin) : Inv (State.new n pin) where
  lightCount := hn
  buffer := rfl
  allocated := rfl
  boundData := rfl
  boundClock := rfl
  pins _ _ hd := nomatch hd
  faulted h := nomatch h
  untouched _ := ⟨rfl, rfl, rfl, rfl⟩
  idleLevels h := nomatch h
  powerFirst h := nomatch h
  neverPoweredDown := ⟨nofun, nofun⟩
  powerBeforeClock _ := ⟨rfl, rfl⟩

/-- Settles O48: the legal counts are those from 1 to MAXN, and the count of the reset state is one of them. -/
theorem invariantHoldsAtReset : Obligations.InvariantHoldsAtReset := by
  refine ⟨fun n pin hone hmax => inv_new ((legalLightCount_iff n).mpr ?_) pin,
    inv_new (by decide) Config.resetPowerPin⟩
  omega

section
variable {s t : State}

/-- The invariant does not speak of the host. -/
theorem Inv.withHost (h : Inv s) (moves : List HostMove) : Inv (s.withHost moves) := { h with }

/-- The invariant does not speak of the responses. -/
theorem Inv.respond (h : Inv s) (r : Response) : Inv (s.respond r) := { h with }

/-- A reset to a legal count makes a new encoder, so the invariant holds whatever held before (R140). -/
theorem inv_renewed (s : State) {n : Int} (hn : legalLightCount n = true) : Inv (s.renewed n.toNat) := by
  have ⟨hone, _⟩ := (legalLightCount_iff n).mp hn
  have hcast : (n.toNat : Int) = n := Int.toNat_of_nonneg (by omega)
  exact { inv_new (hcast.symm ▸ hn) s.powerPin with }

/-- Once an Initialized encoder has nothing pending, its lines are PWR high, DATA and CLK low (R26, R91). -/
theorem Inv.levels_of_idle (h : Inv s) (hinit : s.lifecycle = .initialized) (hpending : s.pending = []) :
    s.levelPwr = some true ∧ s.levelData = some false ∧ s.levelClk = some false := by
  have hlevels := h.idleLevels hinit
  rwa [hpending] at hlevels

/-- With events pending the encoder is Initialized: before INIT nothing is (R22). -/
theorem Inv.initialized_of_pending (h : Inv s) (hpending : s.pending ≠ []) : s.lifecycle = .initialized := by
  cases hl : s.lifecycle with
  | initialized => rfl
  | uninitialized => exact absurd (h.untouched hl).1 hpending

/-- A frame sent by an idle, Initialized encoder leaves the lines as the invariant asks (R91). -/
theorem Inv.withPending_renderTrace (h : Inv s) (hinit : s.lifecycle = .initialized) (hpending : s.pending = [])
    (n : Nat) (p : List Pixel) : Inv (s.withPending (renderTrace n p)) :=
  have ⟨hpwr, _, _⟩ := h.levels_of_idle hinit hpending
  { h with
    untouched := fun hu => nomatch hu.symm.trans hinit
    idleLevels := fun _ => ⟨(levelAfter_pwr_render s.levelPwr n p).trans hpwr,
      levelAfter_data_render s.levelData n p, levelAfter_clk_render s.levelClk n p⟩
    powerFirst := fun _ => .inl hpwr
    neverPoweredDown := ⟨h.neverPoweredDown.1, fun hmem => renderTrace_no_pwr n p _ hmem rfl⟩ }

/-- Replacing the allocated buffer by another in canonical form keeps the invariant (R18, R20). -/
theorem Inv.withBuf {p q : List Pixel} (h : Inv s) (hbuf : s.buf = some p) (hq : Memory.wf s.N (some q) = true) :
    Inv (s.withBuf q) :=
  { h with
    buffer := hq
    allocated := by rw [State.withBuf_lifecycle, ← h.allocated, hbuf]; rfl }

/-- INIT's events leave PWR high and DATA and CLK low (R23, R102). -/
theorem levelAfter_initTrace (n : Nat) (pwr data clk : Option Bool) :
    levelAfter .pwr pwr (initTrace n) = some true ∧ levelAfter .data data (initTrace n) = some false
      ∧ levelAfter .clk clk (initTrace n) = some false :=
  ⟨levelAfter_pwr_render (some true) n _, levelAfter_data_render data n _, levelAfter_clk_render clk n _⟩

/-- INIT's events do not drive power-enable low (R129). -/
theorem powerDown_not_mem_initTrace (n : Nat) : (⟨.pwr, false⟩ : LineEvent) ∉ initTrace n := by
  intro hmem
  obtain heq | hmem := List.mem_cons.mp hmem
  · cases heq
  · exact renderTrace_no_pwr n _ _ hmem rfl

/-- An accepted command keeps the invariant. -/
theorem Inv.accepts (h : Inv s) (hready : s.ready = true) (haccepts : Accepts s t) : Inv t := by
  obtain ⟨hpending, hfault⟩ := (State.ready_iff s).mp hready
  have hwf := haccepts.wf h.buffer
  cases haccepts with
  | init d c hpins =>
    exact
      { lightCount := h.lightCount
        buffer := hwf
        allocated := rfl
        boundData := rfl
        boundClock := rfl
        pins := fun _ _ hd hc => by cases hd; cases hc; exact hpins
        faulted := fun hf => nomatch (congrArg Option.isSome hfault).symm.trans hf
        untouched := nofun
        idleLevels := fun _ => levelAfter_initTrace s.N s.levelPwr s.levelData s.levelClk
        powerFirst := fun _ => .inr rfl
        neverPoweredDown := ⟨h.neverPoweredDown.1, powerDown_not_mem_initTrace s.N⟩
        powerBeforeClock := h.powerBeforeClock }
  | violate huninit => exact { h with faulted := fun _ => huninit }
  | reject i bound => exact h.respond _
  | store p i c hbuf => exact (h.withBuf hbuf hwf).respond _
  | send p hinit hbuf => exact h.withPending_renderTrace hinit hpending s.N p
  | sendDark p hinit hbuf => exact (h.withBuf hbuf hwf).withPending_renderTrace hinit hpending s.N (clearCells p)

/-- After a Write step PWR is high: it was, or its event was the first pending one, and no event drives it low (R144). -/
theorem Inv.levelPwr_afterWrite {e : LineEvent} {rest : List LineEvent} (h : Inv s) (hpending : s.pending = e :: rest) :
    (s.afterWrite e rest).levelPwr = some true := by
  have hinit := h.initialized_of_pending (by simp [hpending])
  refine (s.afterWrite_level e rest .pwr).trans ?_
  obtain hhigh | hfirst := h.powerFirst hinit
  · obtain ⟨l, v⟩ := e
    have hmem := h.neverPoweredDown.2
    split
    next hl =>
      cases hl
      cases v with
      | true => rfl
      | false => exact absurd (by simp [hpending]) hmem
    next => exact hhigh
  · rw [hpending] at hfirst
    cases hfirst
    rfl

/-- A Write step keeps the invariant: the pending events lose their head, whose level is now written. -/
theorem Inv.afterWrite {e : LineEvent} {rest : List LineEvent} (h : Inv s) (hpending : s.pending = e :: rest) :
    Inv (s.afterWrite e rest) :=
  have hhigh := h.levelPwr_afterWrite hpending
  have hinit := h.initialized_of_pending (by simp [hpending])
  { h with
    untouched := fun hu => nomatch hu.symm.trans hinit
    idleLevels := fun _ => by have hlevels := h.idleLevels hinit; rwa [hpending] at hlevels
    powerFirst := fun _ => .inl hhigh
    neverPoweredDown := ⟨by simp [hhigh], fun hmem => h.neverPoweredDown.2 (by rw [hpending]; exact .tail _ hmem)⟩
    powerBeforeClock := fun hnone => by rw [hhigh] at hnone; cases hnone }

end

/-- Settles O49: the four ways of stepping keep the invariant. -/
theorem everyStepKeepsTheInvariant : Obligations.EveryStepKeepsTheInvariant := by
  intro s t hs h
  cases stepsTo_of_step h with
  | reset n rest hhost hn => exact inv_renewed (s.withHost rest) hn
  | accept rest _ hready haccepts => exact (hs.withHost rest).accepts hready haccepts
  | idle moves hpending => exact hs.withHost moves
  | write e rest moves hpending => exact (hs.withHost moves).afterWrite hpending

/-! Sticky fields and single events. -/

/-- Settles O51: behind a set fault flag no command is accepted, and a Write step writes no field of the claim. -/
theorem onlyResetUndoesTheSticky : Obligations.OnlyResetUndoesTheSticky := by
  intro s t hreset h
  cases stepsTo_of_step h with
  | reset n rest hhost hn => exact absurd hhost (State.host_ne_reset_of_not_resetting hreset)
  | accept rest _ hready haccepts =>
    obtain ⟨-, hfault⟩ := (State.ready_iff s).mp hready
    obtain ⟨hN, hpin, -⟩ := haccepts.frame
    exact ⟨hN, hpin, haccepts.initialized, fun hset => by rw [hfault] at hset; cases hset⟩
  | idle moves hpending => exact ⟨rfl, rfl, id, fun _ => ⟨rfl, rfl, rfl, rfl, rfl, fun _ => rfl⟩⟩
  | write e rest moves hpending =>
    refine ⟨rfl, rfl, id, fun _ => ⟨rfl, rfl, rfl, rfl, rfl, fun hnil => ?_⟩⟩
    rw [hpending] at hnil
    cases hnil

/-- Settles O52: an accepted command performs no event, and a Write step performs the first pending one. -/
theorem aStepPerformsAtMostOneEvent : Obligations.AStepPerformsAtMostOneEvent := by
  intro s t hreset h
  cases stepsTo_of_step h with
  | reset n rest hhost hn => exact absurd hhost (State.host_ne_reset_of_not_resetting hreset)
  | accept rest _ hready haccepts =>
    obtain ⟨hidle, -⟩ := (State.ready_iff s).mp hready
    obtain ⟨-, -, -, hhistory, hlevels⟩ := haccepts.frame
    refine ⟨.inl ⟨hhistory, hlevels⟩, ?_⟩
    obtain ⟨hpending, hresponse⟩ | ⟨-, hnone⟩ := haccepts.response
    · exact .inr ⟨hpending.trans hidle, hresponse⟩
    · exact .inl hnone
  | idle moves hpending => exact ⟨.inl ⟨rfl, rfl, rfl, rfl⟩, .inl rfl⟩
  | write e rest moves hpending =>
    refine ⟨.inr ⟨e, hpending, rfl, (s.withHost moves).afterWrite_level e rest, rfl, rfl, rfl⟩, ?_⟩
    obtain hnone | ⟨hlast, hresponse⟩ := (s.withHost moves).afterWrite_response e rest
    · exact .inl hnone
    · exact .inr ⟨hlast, .ok, hresponse⟩

/-- A step that performs an event is a Write step of the first pending one. -/
theorem step_performs {s t : State} {e : LineEvent} (h : step s = .next t) (hhistory : t.history = s.history ++ [e]) :
    ∃ rest moves, s.pending = e :: rest ∧ t = (s.withHost moves).afterWrite e rest := by
  have hgrows : t.history ≠ s.history := by simp [hhistory]
  cases stepsTo_of_step h with
  | reset n rest hhost hn => exact absurd rfl hgrows
  | accept rest _ hready haccepts =>
    obtain ⟨-, -, -, hsame, -⟩ := haccepts.frame
    exact absurd hsame hgrows
  | idle moves hpending => exact absurd rfl hgrows
  | write f rest moves hpending =>
    have hfe : f = e := by simpa using hhistory
    exact ⟨rest, moves, hfe ▸ hpending, hfe ▸ rfl⟩

/-- Settles O54: a step that performs an event is a Write step, and the invariant gives the levels before and after it. -/
theorem idleLinesAndPoweredClocking : Obligations.IdleLinesAndPoweredClocking := by
  intro s t hs h
  refine ⟨fun e hhistory hline => ?_, (everyStepKeepsTheInvariant s t hs h).levels_of_idle⟩
  obtain ⟨rest, moves, hpending, rfl⟩ := step_performs h hhistory
  refine ⟨?_, (hs.withHost moves).levelPwr_afterWrite hpending⟩
  obtain hhigh | hfirst := hs.powerFirst (hs.initialized_of_pending (by simp [hpending]))
  · exact hhigh
  · rw [hpending] at hfirst
    cases hfirst
    exact absurd rfl hline

end Sys2Proof.Machine
end

section
/-! PROOFS. The step for each of the host's moves: a command taken or not (R93, R100), waiting (R110, R156), a hung driver
(R150), the end of a run (R110), and the reset (R22, R101, R140). -/

namespace Sys2Proof.Machine

/-! A presented command. -/

/-- Settles O7: a ready engine takes the command. -/
theorem stepRunsThePresentedCommand : Obligations.StepRunsThePresentedCommand := by
  intro s w rest hhost hpending hfault
  exact step_of_ready ((State.ready_iff s).mpr ⟨hpending, hfault⟩) hhost

/-- An engine with a command in execution, or faulted, is not ready (R100 (1)). -/
theorem State.not_ready {s : State} (h : s.pending ≠ [] ∨ s.fault ≠ none) : s.ready = false := by
  rw [Bool.eq_false_iff, Ne, State.ready_iff, not_and_or]
  exact h

/-- A command that is not taken leaves the state as it is (R107, last row). -/
theorem exec_of_not_ready {i : Instr} {s : State} (hcmd : i.isCommand = true) (h : s.ready = false) :
    exec i s = .next s := by
  obtain ⟨d, c, rfl⟩ | ⟨x, r, g, b, br, rfl⟩ | rfl | rfl := isCommand_cases hcmd <;> exact whenAccepted_not_ready h

/-- Settles O8: such an engine is not ready. -/
theorem commandNotTakenWhileBusyOrFaulted : Obligations.CommandNotTakenWhileBusyOrFaulted := by
  intro i s hcmd hbusy
  exact exec_of_not_ready hcmd (State.not_ready hbusy)

/-! A Write step. -/

/-- Settles O9: the step is the Write step of the first pending event; the last event brings the response. -/
theorem writeStepPerformsThePendingEvent : Obligations.WriteStepPerformsThePendingEvent := by
  intro s e rest hpending hdriver hhost
  rw [step_of_pending hpending hdriver hhost]
  cases rest <;> rfl

/-- A driver that does not complete one call hangs the event (R93). -/
theorem perform_hangs (e : LineEvent) {s : State} (h : s.driver.completes 1 = false) :
    perform e s = .fault .lineDriverHung := by
  obtain ⟨d, hcall, -⟩ | ⟨-, hperform⟩ := perform_cases e s
  · rw [LineDriver.completes_one_of_call hcall] at h
    cases h
  · exact hperform

/-- A driver that completes no further call hangs the next Write step (R93, R150). -/
theorem advance_hangs {s : State} (hpending : s.pending ≠ []) (hdriver : s.driver = .hangsAfter 0) :
    advance s = .fault .lineDriverHung := by
  obtain ⟨e, rest, hp⟩ := List.exists_cons_of_ne_nil hpending
  have hhangs : s.driver.completes 1 = false := by rw [hdriver]; rfl
  rw [advance, hp]
  simp only [writeStep, perform_hangs e hhangs]

/-- A waiting host lets the engine go on (R110, R156). -/
theorem step_of_wait {s : State} {rest : List HostMove} (hhost : s.host = .wait :: rest) :
    step s = advance (s.withHost rest) := by
  rw [step, hhost]

/-- Settles O10: whether the host waits or holds a command, the engine's next Write step hangs. -/
theorem hungLineDriverStopsTheEngine : Obligations.HungLineDriverStopsTheEngine := by
  intro s hpending hdriver hreset
  match hhost : s.host with
  | [] => rw [step_of_busy hpending (.inl hhost), advance_hangs hpending hdriver]
  | .wait :: rest => rw [step_of_wait hhost, advance_hangs (s := s.withHost rest) hpending hdriver]
  | .reset n :: rest => exact absurd hhost (State.host_ne_reset_of_not_resetting hreset)
  | .command w :: rest => rw [step_of_busy hpending (.inr ⟨w, rest, hhost⟩), advance_hangs hpending hdriver]

/-- With nothing pending the engine does nothing of itself (R110). -/
theorem advance_of_idle {s : State} (h : s.pending = []) : advance s = .next s := by
  rw [advance, h]

/-- What the engine does of itself does not depend on what the host is still going to do. -/
theorem advance_withHost {s t : State} (h : advance s = .next t) (moves : List HostMove) :
    advance (s.withHost moves) = .next (t.withHost moves) := by
  obtain ⟨hpending, rfl⟩ | ⟨e, rest, hpending, hwrite⟩ := advance_cases h
  · exact advance_of_idle (s := t.withHost moves) hpending
  · obtain ⟨d, hcall, -⟩ := writeStep_next hwrite
    rw [writeStep_eq_afterWrite hwrite, advance, State.withHost_pending, hpending]
    exact writeStep_completes (s := s.withHost moves) e rest (LineDriver.completes_one_of_call hcall)

/-- Settles O12: a step with no host move left is what the engine does of itself, and so is a waiting one. -/
theorem waitingHostLetsTheEngineGoOn : Obligations.WaitingHostLetsTheEngineGoOn := by
  intro s rest hhost
  rw [step_of_wait hhost]
  exact ⟨fun hpending => advance_of_idle (s := s.withHost rest) hpending,
    fun _ t ht => advance_withHost (s := s.withHost []) ht rest⟩

/-! The end of a run. -/

theorem State.ended_iff (s : State) :
    s.ended = true ↔ s.pending = [] ∧ (commandLeft s.host = false ∨ s.fault ≠ none) := by
  simp [State.ended, ← Option.isSome_iff_ne_none]

/-- A run that raised a violation has not ended well (R110). -/
theorem State.endedWell_of_fault {s : State} (h : s.fault ≠ none) : s.endedWell = false := by
  rw [State.endedWell, Option.isNone_eq_false_iff.mpr (Option.isSome_iff_ne_none.mpr h), Bool.and_false]

/-- A faulted engine with nothing pending holds what the host presents (R107, last row). -/
theorem step_of_faulted {s : State} {w : CmdWord} {rest : List HostMove} (hpending : s.pending = [])
    (hfault : s.fault ≠ none) (hhost : s.host = .command w :: rest) : step s = .next s := by
  rw [step, hhost]
  simp only [acceptOrAdvance, State.not_ready (.inr hfault)]
  exact advance_of_idle hpending

/-- An ended run stays ended, well or not as it did. It has no command left, and then the host at most waits, or the flag is
set, and then a command is not taken; either way the engine does nothing (R110). -/
theorem step_of_ended {s : State} (hended : s.ended = true) (hreset : s.resetting = false) :
    ∃ moves, step s = .next (s.withHost moves) ∧ (s.withHost moves).ended = true
      ∧ (s.withHost moves).endedWell = s.endedWell := by
  obtain ⟨hpending, hend⟩ := s.ended_iff.mp hended
  match hhost : s.host with
  | [] =>
    rw [step, hhost, advance_of_idle hpending]
    exact ⟨s.host, rfl, hended, rfl⟩
  | .wait :: rest =>
    have hleft : commandLeft s.host = commandLeft rest := by rw [hhost]; rfl
    rw [step_of_wait hhost]
    refine ⟨rest, advance_of_idle (s := s.withHost rest) hpending, ?_, ?_⟩
    · exact (State.ended_iff (s.withHost rest)).mpr ⟨hpending, hleft ▸ hend⟩
    · rw [State.endedWell, State.endedWell, State.ended, State.ended, hleft]
      rfl
  | .reset n :: rest => exact absurd hhost (State.host_ne_reset_of_not_resetting hreset)
  | .command w :: rest =>
    have hfault : s.fault ≠ none := hend.resolve_left (by rw [hhost]; nofun)
    exact ⟨s.host, step_of_faulted hpending hfault hhost, hended, rfl⟩

/-- Settles O11: what is left for the host to do says whether the run has ended, and `step_of_ended` that it stays so. -/
theorem idleEncoderStaysIdle : Obligations.IdleEncoderStaysIdle := by
  refine ⟨fun s hhost hpending => ⟨?_, ?_⟩, fun s k later hpending hhost hlater => ?_, fun s k w later hfault hhost => ?_,
    fun s hpending hfault => ⟨s.ended_iff.mpr ⟨hpending, .inr hfault⟩, State.endedWell_of_fault hfault⟩,
    fun s hended hreset => step_of_ended hended hreset⟩
  · rw [State.ended_iff, hhost]
    exact ⟨hpending, .inl rfl⟩
  · rw [step, hhost]
    exact advance_of_idle hpending
  · rw [State.ended_iff, hhost, commandLeft_replicate_wait]
    obtain rfl | ⟨n, moves, rfl⟩ := hlater <;> exact ⟨hpending, .inl rfl⟩
  · rw [Bool.eq_false_iff, Ne, State.ended_iff, hhost, commandLeft_replicate_wait]
    rintro ⟨-, hleft | hset⟩
    · cases hleft
    · exact hset hfault

/-! The reset. -/

theorem step_of_reset {s : State} {n : Int} {rest : List HostMove} (hhost : s.host = .reset n :: rest) :
    step s = resetMove n (s.withHost rest) := by
  rw [step, hhost]

/-- Settles O13: `State.new` is R22's table, and `State.reset` is one of its values. -/
theorem resetLeavesEveryFieldAsTabled : Obligations.ResetLeavesEveryFieldAsTabled :=
  ⟨fun _ _ => ⟨rfl, rfl, rfl, rfl, rfl, rfl, rfl, rfl, rfl, rfl⟩,
    Config.resetLights, Config.resetPowerPin, rfl, by decide⟩

/-- Settles O14: the count is legal, so the state is renewed. -/
theorem hostResetMakesANewInstance : Obligations.HostResetMakesANewInstance := by
  intro s n rest hhost hone hmax
  rw [step_of_reset hhost, resetMove, if_pos ((legalLightCount_iff n).mpr ⟨hone, hmax⟩)]
  rfl

/-- Settles O15: the count is not legal. -/
theorem illegalLightCountIsRefused : Obligations.IllegalLightCountIsRefused := by
  intro s n rest hhost hcount
  have hillegal : ¬legalLightCount n = true := by
    rw [legalLightCount_iff, Config.maxLights]
    omega
  rw [step_of_reset hhost, resetMove, if_neg hillegal]

end Sys2Proof.Machine
end

section
/-! PROOFS. The micro-operations on the buffer that fault or raise (R18, R119), the validator (R68), the wire word (R72),
and the transmission operations: EMIT, DATA, and a driver that hangs (R80, R86, R150). -/

namespace Sys2Proof.Machine

/-! The buffer. -/

/-- Settles O17: the index names no cell, so `set` raises PreconditionViolation. -/
theorem bufSetOutsideTheBufferIsFatal : Obligations.BufSetOutsideTheBufferIsFatal := by
  intro s i v hi
  have hcell : ¬s.hasCell i = true := by
    rw [State.hasCell_iff]
    omega
  rw [exec, execBufSet, if_neg hcell]
  rfl

/-- An access to the unallocated buffer is a fault (R18, D24). -/
theorem withBuffer_none {s : State} {f : List Pixel → Result} (h : s.buf = none) :
    withBuffer s f = .fault .bufferUnallocated := by
  simp [withBuffer, h]

/-- Settles O20: each of the four accesses the buffer, `set` because its index names a cell. -/
theorem unallocatedBufferFaults : Obligations.UnallocatedBufferFaults := by
  intro s hbuf
  refine ⟨fun i v _ hN => ?_, withBuffer_none hbuf, withBuffer_none hbuf, withBuffer_none hbuf⟩
  rw [exec, execBufSet, if_pos ((s.hasCell_iff i).mpr ⟨Int.natCast_nonneg i, Int.ofNat_lt.mpr hN⟩),
    withBuffer_none hbuf]

/-! The validator. -/

theorem not_inRange_iff (lo hi x : Int) : (!inRange lo hi x) = true ↔ ¬(lo ≤ x ∧ x ≤ hi) := by
  rw [Bool.not_eq_true', Bool.eq_false_iff, Ne, inRange_iff]

/-- The bounds in the order of the signature, as R68 writes them. -/
theorem firstFailing_eq (n : Nat) (i r g b br : Int) :
    firstFailing n i r g b br =
      if ¬(0 ≤ i ∧ i < n) then some .index
      else if ¬(0 ≤ r ∧ r ≤ 255) then some .red
      else if ¬(0 ≤ g ∧ g ≤ 255) then some .green
      else if ¬(0 ≤ b ∧ b ≤ 255) then some .blue
      else if ¬(0 ≤ br ∧ br ≤ 31) then some .brightness
      else none := by
  simp only [firstFailing, not_inRange_iff, Int.le_sub_one_iff, Format.channelMax, Format.brightnessMax]

/-- Settles O21: VALIDATE answers by the first failing bound, whose case split is that of the statement. -/
theorem validateTestsBoundsInSignatureOrder : Obligations.ValidateTestsBoundsInSignatureOrder := by
  intro s i r g b br
  rw [exec, execValidate, firstFailing_eq]
  split_ifs <;> rfl

/-! The wire word. -/

/-- The four wire bytes show the four fields (R48, R72). -/
theorem unpackPixel_eq_of_wireBytes_eq {v w : Pixel} (h : wireBytes v = wireBytes w) : unpackPixel v = unpackPixel w := by
  simp only [wireBytes, List.cons.injEq, and_true] at h
  obtain ⟨hmarked, hblue, hgreen, hred⟩ := h
  have hbrightness := congrArg BitVec.toNat hmarked
  rw [marker_append_toNat, marker_append_toNat] at hbrightness
  exact channels_eq_of_toNat_eq (congrArg _ hred) (congrArg _ hgreen) (congrArg _ hblue) (by omega)

/-- Settles O26: the wire word shows the fields, and below `2 ^ 29` the fields are the pixel. -/
theorem encodeIsInjective : Obligations.EncodeIsInjective := by
  intro v w hv hw h
  rw [← (packChannels_unpackPixel_eq_iff v).mpr hv, unpackPixel_eq_of_wireBytes_eq h,
    (packChannels_unpackPixel_eq_iff w).mpr hw]

/-- A byte of a pixel, masked out and narrowed as a driver in software does it. -/
theorem setWidth_shift_and_mask (v : Pixel) (k : Nat) : ((v >>> k) &&& 0xFF#32).setWidth 8 = v.extractLsb' k 8 := by
  rw [← BitVec.toNat_inj, BitVec.toNat_setWidth, BitVec.toNat_and, BitVec.extractLsb'_toNat, BitVec.toNat_ushiftRight]
  exact (congrArg (· % 2 ^ 8) (Nat.and_two_pow_sub_one_eq_mod _ 8)).trans (Nat.mod_mod _ _)

/-- The marker put above the brightness by `|`. -/
theorem marker_or_brightness (v : Pixel) :
    0xE0#8 ||| ((v >>> 24) &&& 0x1F#32).setWidth 8 = Format.marker ++ (unpackPixel v).brightness := by
  rw [← BitVec.toNat_inj, marker_append_toNat, unpackPixel_brightness_toNat, BitVec.toNat_or, BitVec.toNat_setWidth,
    BitVec.toNat_and, BitVec.toNat_ushiftRight, Nat.shiftRight_eq_div_pow]
  have hmask : v.toNat / 2 ^ 24 &&& 31 = v.toNat / 2 ^ 24 % 32 := Nat.and_two_pow_sub_one_eq_mod _ 5
  have hlt : v.toNat / 2 ^ 24 % 32 < 2 ^ 5 := Nat.mod_lt _ (by decide)
  have hor : 224 + v.toNat / 2 ^ 24 % 32 = 224 ||| v.toNat / 2 ^ 24 % 32 := Nat.shiftLeft_add_eq_or_of_lt (a := 7) hlt
  change 224 ||| (v.toNat / 2 ^ 24 &&& 31) % 2 ^ 8 = _
  rw [hmask, Nat.mod_eq_of_lt (by omega), hor]

/-- The wire bytes written with shifts and masks (R48, R72). -/
theorem wireBytes_eq_masks (v : Pixel) :
    wireBytes v =
      [0xE0#8 ||| ((v >>> 24) &&& 0x1F#32).setWidth 8, (v &&& 0xFF#32).setWidth 8, ((v >>> 8) &&& 0xFF#32).setWidth 8,
        ((v >>> 16) &&& 0xFF#32).setWidth 8] := by
  rw [marker_or_brightness, setWidth_shift_and_mask, setWidth_shift_and_mask, ← BitVec.ushiftRight_zero v,
    setWidth_shift_and_mask]
  rfl

/-! EMIT. -/

/-- Settles O27: EMIT performs its one event, or hangs in it. -/
theorem emitSetsItsLine : Obligations.EmitSetsItsLine := by
  intro s line level
  exact ⟨fun h => perform_completes ⟨line, level⟩ s h, perform_hangs ⟨line, level⟩⟩

/-! DATA. -/

theorem dataTrace_append (p q : List Pixel) : dataTrace (p ++ q) = dataTrace p ++ dataTrace q :=
  List.flatMap_append

theorem dataTrace_singleton (v : Pixel) : dataTrace [v] = wordTrace v :=
  List.flatMap_singleton wordTrace v

/-- The words are in the middle of a frame, and so have no PWR event. -/
theorem dataTrace_no_pwr (p : List Pixel) : ∀ e ∈ dataTrace p, e.line ≠ .pwr :=
  fun e he => renderTrace_no_pwr 0 p e (List.mem_append_left _ (List.mem_append_right _ he))

/-- A word leaves DATA at bit 0 of its last byte, the red one (R86). -/
theorem levelAfter_data_word (v : Pixel) (x : Option Bool) : levelAfter .data x (wordTrace v) = some (v.getLsbD 16) := by
  have hlast : levelAfter .data x (wordTrace v) = some ((unpackPixel v).red.getLsbD 0) := rfl
  rw [hlast, unpackPixel, BitVec.getLsbD_extractLsb']
  rfl

/-- A word leaves CLK low (R86). -/
theorem levelAfter_clk_word (v : Pixel) (x : Option Bool) : levelAfter .clk x (wordTrace v) = some false := rfl

/-- The words leave a line as the last of them does. -/
theorem levelAfter_dataTrace_of_getLast {l : Line} {p : List Pixel} {last : Pixel} {y : Option Bool}
    (hlast : p.getLast? = some last) (hword : ∀ x, levelAfter l x (wordTrace last) = y) (x : Option Bool) :
    levelAfter l x (dataTrace p) = y := by
  obtain ⟨front, rfl⟩ := List.getLast?_eq_some_iff.mp hlast
  rw [dataTrace_append, levelAfter_append, dataTrace_singleton, hword]

/-- Settles O31: DATA performs the words of the snapshot, whose last one gives the levels. -/
theorem dataSendsTheWordsInBufferOrder : Obligations.DataSendsTheWordsInBufferOrder := by
  intro s p last hlast hdriver
  simp only [← wireBytes_eq_masks, ← writeByteTrace_eq_flatMap, List.flatMap_assoc]
  exact performAll_of_no_pwr (dataTrace_length p) hdriver (dataTrace_no_pwr p)
    (levelAfter_dataTrace_of_getLast hlast (levelAfter_data_word last) _)
    (levelAfter_dataTrace_of_getLast hlast (levelAfter_clk_word last) _)

/-! A driver that hangs. -/

theorem LineDriver.not_completes_of_hangsAfter {d : LineDriver} {k n : Nat} (hd : d = .hangsAfter k) (hk : k < n) :
    d.completes n = false := by
  rw [hd, LineDriver.completes, decide_eq_false_iff_not]
  omega

/-- A driver that hangs before the last call of a trace hangs the trace (R93, R150). -/
theorem performAll_hangsAfter {es : List LineEvent} {s : State} {k n : Nat} (hd : s.driver = .hangsAfter k)
    (hlen : es.length = n) (hk : k < n) : performAll es s = .fault .lineDriverHung :=
  performAll_hangs es s (LineDriver.not_completes_of_hangsAfter hd (hlen ▸ hk))

/-- Settles O34: each operation performs its trace, one event or as many as its length lemma says. -/
theorem transmissionHangsWithItsDriver : Obligations.TransmissionHangsWithItsDriver := by
  intro s k hd
  refine ⟨fun hk l v => perform_hangs ⟨l, v⟩ (LineDriver.not_completes_of_hangsAfter hd hk),
    performAll_hangsAfter hd rfl, fun hk b => performAll_hangsAfter hd (writeByteTrace_length b) hk,
    performAll_hangsAfter hd (preambleTrace_length s.N), fun p => performAll_hangsAfter hd (dataTrace_length p),
    performAll_hangsAfter hd latchTrace_length, fun p hbuf hlen hk => ?_⟩
  rw [exec, execRenderMicro, withBuffer_some hbuf]
  exact performAll_hangsAfter hd (renderTrace_length_of_length_eq hlen) hk

end Sys2Proof.Machine
end

section
/-! PROOFS. The four commands at a ready engine, one equation for each outcome (R102 to R106, R118, R120), and what every
instruction can add to the responses (R58, R115, R134). -/

namespace Sys2Proof.Machine

/-! INIT. -/

/-- Three different pins are pairwise different (R16, D7). -/
theorem pinsDistinct_iff (d c p : Pin) : pinsDistinct d c p = true ↔ d ≠ c ∧ d ≠ p ∧ c ≠ p := by
  simp [pinsDistinct, and_assoc]

/-- INIT with three different pins at a ready engine, in either lifecycle state (R102, R103). -/
theorem exec_init_of_ready {s : State} {d c : Pin} (hready : s.ready = true)
    (hpins : pinsDistinct d c s.powerPin = true) :
    exec (.init d c) s = .next ((s.bound d c).withPending (initTrace s.N)) := by
  rw [exec, execInit, whenAccepted_ready hready, if_pos hpins, clearCells_eq, freshCells, List.length_replicate]
  rfl

/-- Settles O39: the engine is ready and the pins are distinct. -/
theorem initBindsAllocatesAndSendsADarkFrame : Obligations.InitBindsAllocatesAndSendsADarkFrame := by
  intro s d c hpending hfault hdc hdp hcp
  exact exec_init_of_ready ((State.ready_iff s).mpr ⟨hpending, hfault⟩) ((pinsDistinct_iff d c _).mpr ⟨hdc, hdp, hcp⟩)

/-- Settles O40: the engine is ready and the pins are not distinct. -/
theorem initOnSharedPinsIsRefused : Obligations.InitOnSharedPinsIsRefused := by
  intro s d c hpending hfault hshared
  have hpins : ¬pinsDistinct d c s.powerPin = true := by
    rw [pinsDistinct_iff]
    tauto
  rw [exec, execInit, whenAccepted_ready ((State.ready_iff s).mpr ⟨hpending, hfault⟩), if_neg hpins]

/-! SETLIGHT. -/

/-- SETLIGHT with its operands in range stores the packed pixel and responds OK (R104). -/
theorem exec_setlight_of_inRange {s : State} {p : List Pixel} {i r g b br : Int} (hready : s.ready = true)
    (hinit : s.lifecycle = .initialized) (hbuf : s.buf = some p) (hrange : firstFailing s.N i r g b br = none) :
    exec (.setlight i r g b br) s = .next ((s.writeCell p i (packOperands r g b br)).respond .ok) := by
  rw [exec, execSetlight, whenAccepted_ready hready, whenInitialized_initialized hinit, hrange]
  exact withBuffer_some hbuf

/-- SETLIGHT with an operand out of range reports the bound and does nothing else (R104, R120). -/
theorem exec_setlight_of_failing {s : State} {bound : Bound} {i r g b br : Int} (hready : s.ready = true)
    (hinit : s.lifecycle = .initialized) (hfails : firstFailing s.N i r g b br = some bound) :
    exec (.setlight i r g b br) s = .next (s.respond (.invalidArgument i bound)) := by
  rw [exec, execSetlight, whenAccepted_ready hready, whenInitialized_initialized hinit, hfails]
  rfl

/-- The packed operands are the sum of the shifted operands (R57, R69). -/
theorem packOperands_toNat {r g b br : Int} (hr : 0 ≤ r ∧ r ≤ 255) (hg : 0 ≤ g ∧ g ≤ 255) (hb : 0 ≤ b ∧ b ≤ 255)
    (hbr : 0 ≤ br ∧ br ≤ 31) :
    ((packOperands r g b br).toNat : Int) = br * 2 ^ 24 + r * 2 ^ 16 + g * 2 ^ 8 + b := by
  have hred : ((channelsOf r g b br).red.toNat : Int) = r := toNat_ofInt_of_lt hr.1 (by omega)
  have hgreen : ((channelsOf r g b br).green.toNat : Int) = g := toNat_ofInt_of_lt hg.1 (by omega)
  have hblue : ((channelsOf r g b br).blue.toNat : Int) = b := toNat_ofInt_of_lt hb.1 (by omega)
  have hbrightness : ((channelsOf r g b br).brightness.toNat : Int) = br := toNat_ofInt_of_lt hbr.1 (by omega)
  rw [packOperands, packChannels_toNat]
  omega

/-- Settles O41: the stored pixel is the packed operands, and the read-after-write rule gives the cells. -/
theorem setlightStoresOnePackedPixel : Obligations.SetlightStoresOnePackedPixel := by
  intro s p i r g b br hpending hfault hinit hbuf hlen hi0 hiN hr0 hr1 hg0 hg1 hb0 hb1 hbr0 hbr1
  have hrange : firstFailing s.N i r g b br = none :=
    (firstFailing_eq_none ..).mpr ⟨⟨hi0, hiN⟩, ⟨hr0, hr1⟩, ⟨hg0, hg1⟩, ⟨hb0, hb1⟩, hbr0, hbr1⟩
  have hk : i.toNat < p.length := by omega
  exact ⟨_, packOperands r g b br,
    exec_setlight_of_inRange ((State.ready_iff s).mpr ⟨hpending, hfault⟩) hinit hbuf hrange,
    packOperands_toNat ⟨hr0, hr1⟩ ⟨hg0, hg1⟩ ⟨hb0, hb1⟩ ⟨hbr0, hbr1⟩, rfl, State.cell_of_buf_set hbuf rfl hk⟩

/-- Settles O42: some bound fails, and the validator names the first. -/
theorem setlightOutOfRangeChangesNothing : Obligations.SetlightOutOfRangeChangesNothing := by
  intro s i r g b br hpending hfault hinit hout
  obtain ⟨bound, hfails⟩ := Option.ne_none_iff_exists'.mp (mt (firstFailing_eq_none ..).mp hout)
  refine ⟨bound, exec_setlight_of_failing ((State.ready_iff s).mpr ⟨hpending, hfault⟩) hinit hfails, ?_⟩
  rw [firstFailing_eq] at hfails
  split_ifs at hfails with hi hr hg hb hbr <;> cases hfails
  · exact ⟨hi, hr, hg, hb, hbr⟩
  · exact ⟨hi, hr, hg, hb⟩
  · exact ⟨hi, hr, hg⟩
  · exact ⟨hi, hr⟩
  · exact hi

/-! RENDER and RESETALL. -/

/-- Settles O43: a ready, Initialized encoder has the frame of its buffer to send. -/
theorem renderSendsTheBuffer : Obligations.RenderSendsTheBuffer := by
  intro s p hpending hfault hinit hbuf
  exact exec_render_of_ready ((State.ready_iff s).mpr ⟨hpending, hfault⟩) hinit hbuf

/-- RESETALL at a ready, Initialized encoder zeroes its buffer and has that frame to send (R106). -/
theorem exec_resetall_of_ready {s : State} {p : List Pixel} (hready : s.ready = true)
    (hinit : s.lifecycle = .initialized) (hbuf : s.buf = some p) :
    exec .resetall s = .next
      ((s.withBuf (List.replicate p.length 0)).withPending (renderTrace s.N (List.replicate p.length 0))) := by
  rw [exec, execResetall, whenAccepted_ready hready, whenInitialized_initialized hinit, withBuffer_some hbuf,
    clearCells_eq]

/-- Settles O44. The cleared buffer is the zeros of the same length. -/
theorem resetallZeroesThenSendsADarkFrame : Obligations.ResetallZeroesThenSendsADarkFrame := by
  intro s p hpending hfault hinit hbuf
  exact exec_resetall_of_ready ((State.ready_iff s).mpr ⟨hpending, hfault⟩) hinit hbuf

/-! Before INIT. -/

/-- Settles O45: the lifecycle is checked before anything else of the three commands. -/
theorem commandsBeforeInitAreFatal : Obligations.CommandsBeforeInitAreFatal := by
  intro s hpending hfault huninit i hi
  have hraise : ∀ body, whenAccepted s (whenInitialized s body) = raisePreconditionViolation s := fun body => by
    rw [whenAccepted_ready ((State.ready_iff s).mpr ⟨hpending, hfault⟩), whenInitialized_uninitialized huninit]
  obtain ⟨x, r, g, b, br, rfl⟩ | rfl | rfl := hi <;> exact hraise _

/-! Responses. -/

/-- Performing an event gives no response (R80). -/
theorem perform_responses {e : LineEvent} {s t : State} (h : perform e s = .next t) : t.responses = s.responses := by
  obtain ⟨d, -, hperform⟩ | ⟨-, hperform⟩ := perform_cases e s <;> rw [hperform] at h <;> cases h
  simp

/-- Performing a trace gives no response. -/
theorem performAll_responses {es : List LineEvent} {s t : State} (h : performAll es s = .next t) :
    t.responses = s.responses := by
  induction es generalizing s with
  | nil => cases h; rfl
  | cons e es ih =>
    rw [performAll] at h
    split at h
    next u hu => rw [ih h, perform_responses hu]
    · cases h
    · cases h

/-- What an instruction can do to the responses: nothing, respond OK, or raise one of the two errors, and then it does
nothing else (R58, R115, R120, R121). -/
inductive Responds (s : State) : State → Prop
  /-- No response now. -/
  | silent (t : State) (h : t.responses = s.responses) : Responds s t
  /-- Normal return. -/
  | ok (t : State) (h : t.responses = s.responses ++ [.ok]) : Responds s t
  /-- `raise InvalidArgument`. -/
  | invalidArgument (i : Int) (bound : Bound) : Responds s (s.respond (.invalidArgument i bound))
  /-- `raise PreconditionViolation`. -/
  | preconditionViolation :
      Responds s ({ s with fault := some .preconditionViolation }.respond .preconditionViolation)

theorem Accepts.responds {s t : State} (h : Accepts s t) : Responds s t := by
  cases h with
  | init d c hpins => exact .silent _ rfl
  | violate huninit => exact .preconditionViolation
  | reject i bound => exact .invalidArgument i bound
  | store p i c hbuf => exact .ok _ rfl
  | send p hinit hbuf => exact .silent _ rfl
  | sendDark p hinit hbuf => exact .silent _ rfl

/-- The commands: not taken, or accepted. -/
theorem responds_of_exec_command {i : Instr} {s t : State} (hcmd : i.isCommand = true) (h : exec i s = .next t) :
    Responds s t := by
  cases hready : s.ready with
  | true => exact (accepts_of_exec hcmd hready h).responds
  | false =>
    rw [exec_of_not_ready hcmd hready] at h
    cases h
    exact .silent _ rfl

/-- The micro-operations: only `set` and `validate` raise an error (R68, R119). -/
theorem responds_of_exec_micro {i : Instr} {s t : State} (hmicro : i.isCommand = false) (h : exec i s = .next t) :
    Responds s t := by
  cases i with
  | init | setlight | render | resetall => cases hmicro
  | bufSet index v =>
    obtain ⟨-, hset⟩ | ⟨-, -, hset⟩ | ⟨-, p, -, hset⟩ := execBufSet_cases index v s <;> cases hset.symm.trans h
    · exact .preconditionViolation
    · exact .silent _ rfl
  | validate x r g b br =>
    rw [exec, execValidate] at h
    split at h <;> cases h
    · exact .invalidArgument _ _
    · exact .silent _ rfl
  | bufAll | bufResetall =>
    obtain ⟨p, -, hp⟩ := withBuffer_next h
    cases hp
    exact .silent _ rfl
  | pack | unpack | encode =>
    cases h
    exact .silent _ rfl
  | emit => exact .silent t (perform_responses h)
  | clockpulse | writebyte | preamble | data | latch => exact .silent t (performAll_responses h)
  | renderMicro =>
    obtain ⟨p, -, hp⟩ := withBuffer_next h
    exact .silent t (performAll_responses hp)

theorem responds_of_exec {i : Instr} {s t : State} (h : exec i s = .next t) : Responds s t := by
  cases hcmd : i.isCommand with
  | true => exact responds_of_exec_command hcmd h
  | false => exact responds_of_exec_micro hcmd h

/-- Settles O46: a response that is an error is one that a raise operation gave. -/
theorem errorsArePrecise : Obligations.ErrorsArePrecise := by
  intro i s t r h hresponse hr
  cases responds_of_exec h with
  | silent _ hsame => simp [hsame] at hresponse
  | ok _ hok =>
    have hrok : r = .ok := by simpa [hok, eq_comm] using hresponse
    exact absurd hrok hr
  | invalidArgument x bound =>
    have hrx : r = .invalidArgument x bound := by simpa [eq_comm] using hresponse
    subst hrx
    exact .inl ⟨x, bound, rfl, rfl⟩
  | preconditionViolation =>
    have hrp : r = .preconditionViolation := by simpa [eq_comm] using hresponse
    subst hrp
    exact .inr ⟨rfl, rfl⟩

/-- Settles O47: a command that responds at once has nothing pending for the big step to answer, and one that has is
answered OK by it. -/
theorem oneResponsePerCommand : Obligations.OneResponsePerCommand := by
  intro i s t hcmd hpending hfault h
  have hresponse := (accepts_of_exec hcmd ((State.ready_iff s).mpr ⟨hpending, hfault⟩) h).response
  rw [hpending] at hresponse
  refine ⟨hresponse, ?_⟩
  obtain ⟨hnil, honce⟩ | ⟨hsends, hnone⟩ := hresponse
  · rwa [State.completed_of_pending_nil hnil]
  · rw [State.completed_of_pending_ne_nil hsends, ← hnone]
    exact ⟨.ok, rfl⟩

end Sys2Proof.Machine
end

section
/-! PROOFS. Runs of one command to completion (R19, R102, R105 to R107), a SETLIGHT seen by the next RENDER (R42), and
RESETALL against the SETLIGHTs of all lights followed by RENDER (R62 (c)). -/

namespace Sys2Proof.Machine

/-! A driver that completes every call. -/

/-- Settles O55: pending events drain when the host has no move left. -/
theorem pendingEventsDrain : Obligations.PendingEventsDrain :=
  fun _ hhost hdriver => run_pending rfl hdriver (.inl hhost)

/-- A driver that completes every call is not worn out by calls (R155). -/
theorem LineDriver.afterCalls_of_ready {d : LineDriver} (h : d = .ready) (k : Nat) : d.afterCalls k = d := by
  rw [h]
  rfl

theorem LineDriver.completes_of_ready {d : LineDriver} (h : d = .ready) (k : Nat) : d.completes k = true := by
  rw [h]
  rfl

/-- One frame performed by such a driver leaves DATA and CLK low, and writes the history besides (R91). -/
theorem State.performed_renderTrace {s : State} (h : s.driver = .ready) (n : Nat) (p : List Pixel) :
    s.performed (renderTrace n p) =
      { s with levelData := some false, levelClk := some false, history := s.history ++ renderTrace n p } := by
  rw [State.performed, levelAfter_pwr_render, levelAfter_data_render, levelAfter_clk_render,
    LineDriver.afterCalls_of_ready h]

/-- INIT's events performed by such a driver leave PWR high as well (R23). -/
theorem State.performed_initTrace {s : State} (h : s.driver = .ready) (n : Nat) :
    s.performed (initTrace n) =
      { s with levelPwr := some true, levelData := some false, levelClk := some false,
               history := s.history ++ initTrace n } := by
  obtain ⟨hpwr, hdata, hclk⟩ := levelAfter_initTrace n s.levelPwr s.levelData s.levelClk
  rw [State.performed, hpwr, hdata, hclk, LineDriver.afterCalls_of_ready h]

/-! One command. -/

/-- With nothing pending, a list of no events is what is pending already. -/
theorem State.withPending_nil_of_idle {s : State} (h : s.pending = []) : s.withPending [] = s := by
  rw [← h]
  rfl

/-- A run that ends in a state goes on as the run from that state. -/
theorem run_add_of_next {a b : Nat} {s t u : State} (hfirst : run a s = .next t) (hsecond : run b t = .next u) :
    run (a + b) s = .next u := by
  rw [run_add, hfirst]
  exact hsecond

/-- A command that has `n` events to send runs to completion in `1 + n` steps (R19, R107). -/
theorem run_command {s t : State} {w : CmdWord} {es : List LineEvent} {n : Nat} (hready : s.ready = true)
    (hhost : s.host = [.command w]) (hexec : exec (decode w) (s.withHost []) = .next (t.withPending es))
    (hlen : es.length = n) (hes : es ≠ []) (hidle : t.pending = []) (hdriver : t.driver = .ready) (hthost : t.host = []) :
    run (1 + n) s = .next ((t.performed es).respond .ok) := by
  subst hlen
  have hbigStep : (t.withPending es).completed = (t.performed es).respond .ok := by
    rw [State.completed_of_pending_ne_nil hes]
    exact congrArg (State.respond · .ok) (State.withPending_nil_of_idle (s := t.performed es) hidle)
  have haccept : run 1 s = .next (t.withPending es) := by rw [run_one, step_of_ready hready hhost, hexec]
  rw [← hbigStep]
  exact run_add_of_next haccept
    (run_pending (s := t.withPending es) rfl (LineDriver.completes_of_ready hdriver _) (.inl hthost))

/-- The state after a frame of `p` has been sent and answered (R105, R107). -/
def State.sent (s : State) (p : List Pixel) : State :=
  { s with
    levelData := some false
    levelClk := some false
    history := s.history ++ renderTrace s.N p
    responses := s.responses ++ [.ok] }

/-- RENDER runs to completion (R105). -/
theorem run_render_of_driver_ready {s : State} {p : List Pixel} {w : CmdWord} (hready : s.ready = true)
    (hinit : s.lifecycle = .initialized) (hbuf : s.buf = some p) (hlen : p.length = s.N) (hdriver : s.driver = .ready)
    (hw : decode w = .render) (hhost : s.host = [.command w]) :
    run (1 + (120 * s.N + 73)) s = .next ((s.withHost []).sent p) := by
  have hcompletes := LineDriver.completes_of_ready hdriver (120 * s.N + 73)
  rw [run_render hready hinit hbuf hlen hcompletes hw hhost (.inl rfl), State.afterRender,
    State.performed_renderTrace (s := s.withHost []) hdriver]
  rfl

/-- RESETALL runs to completion (R106). -/
theorem run_resetall {s : State} {p : List Pixel} {w : CmdWord} (hready : s.ready = true)
    (hinit : s.lifecycle = .initialized) (hbuf : s.buf = some p) (hlen : p.length = s.N) (hdriver : s.driver = .ready)
    (hw : decode w = .resetall) (hhost : s.host = [.command w]) :
    run (1 + (120 * s.N + 73)) s =
      .next (((s.withHost []).withBuf (List.replicate s.N 0)).sent (List.replicate s.N 0)) := by
  obtain ⟨hidle, -⟩ := (State.ready_iff s).mp hready
  have hexec := exec_resetall_of_ready (s := s.withHost []) hready hinit hbuf
  rw [hlen, ← hw, State.withHost_N] at hexec
  rw [run_command hready hhost hexec (renderTrace_length_of_length_eq (List.length_replicate ..))
    (renderTrace_ne_nil _ _) hidle hdriver rfl, State.performed_renderTrace (s := (s.withHost []).withBuf _) hdriver]
  rfl

/-- Settles O56: each command by its run. -/
theorem commandsRunToCompletion : Obligations.CommandsRunToCompletion := by
  intro s p hpending hfault hinit hbuf hlen hdriver
  have hready := (State.ready_iff s).mpr ⟨hpending, hfault⟩
  exact ⟨fun w => run_render_of_driver_ready hready hinit hbuf hlen hdriver,
    fun w => run_resetall hready hinit hbuf hlen hdriver⟩

theorem initTrace_length (n : Nat) : (initTrace n).length = 120 * n + 74 := by
  rw [initTrace, List.length_cons, renderTrace_length_of_length_eq (List.length_replicate ..)]

/-- Settles O57: the accepted INIT has its `120N + 74` events to send. -/
theorem initRunsToCompletion : Obligations.InitRunsToCompletion := by
  intro s w d c hpending hfault hdriver hw hhost hdc hdp hcp
  have hready := (State.ready_iff s).mpr ⟨hpending, hfault⟩
  have hexec := exec_init_of_ready (s := s.withHost []) hready ((pinsDistinct_iff d c _).mpr ⟨hdc, hdp, hcp⟩)
  rw [← hw, State.withHost_N] at hexec
  rw [run_command hready hhost hexec (initTrace_length _) (initTrace_ne_nil _) hpending hdriver rfl,
    State.performed_initTrace (s := (s.withHost []).bound d c) hdriver]
  rfl

/-! SETLIGHT, then RENDER. -/

/-- A SETLIGHT with its operands in range is done in one step (R104). -/
theorem step_setlight {s : State} {p : List Pixel} {w : CmdWord} {moves : List HostMove} {i r g b br : Int}
    (hready : s.ready = true) (hinit : s.lifecycle = .initialized) (hbuf : s.buf = some p)
    (hrange : firstFailing s.N i r g b br = none) (hw : decode w = .setlight i r g b br)
    (hhost : s.host = .command w :: moves) :
    step s = .next (((s.withHost moves).writeCell p i (packOperands r g b br)).respond .ok) := by
  rw [step_of_ready hready hhost, hw]
  exact exec_setlight_of_inRange (s := s.withHost moves) hready hinit hbuf hrange

/-- Settles O59: after the SETLIGHT the encoder is ready for the RENDER, with the cell replaced. -/
theorem setlightIsVisibleToTheNextRender : Obligations.SetlightIsVisibleToTheNextRender := by
  intro s p w v i r g b br hpending hfault hinit hbuf hlen hdriver hw hv hhost hi0 hiN hr0 hr1 hg0 hg1 hb0 hb1 hbr0 hbr1
  have hready := (State.ready_iff s).mpr ⟨hpending, hfault⟩
  have hrange : firstFailing s.N i r g b br = none :=
    (firstFailing_eq_none ..).mpr ⟨⟨hi0, hiN⟩, ⟨hr0, hr1⟩, ⟨hg0, hg1⟩, ⟨hb0, hb1⟩, hbr0, hbr1⟩
  have hrender := run_render_of_driver_ready
    (s := ((s.withHost [.command v]).writeCell p i (packOperands r g b br)).respond .ok)
    hready hinit rfl ((List.length_set ..).trans hlen) hdriver hv rfl
  exact ⟨_, packOperands r g b br,
    run_add_of_next ((run_one s).trans (step_setlight hready hinit hbuf hrange hw hhost)) hrender,
    packOperands_toNat ⟨hr0, hr1⟩ ⟨hg0, hg1⟩ ⟨hb0, hb1⟩ ⟨hbr0, hbr1⟩, rfl, rfl⟩

/-! SETLIGHT of every light. -/

/-- The first `j` cells of a buffer zeroed. -/
def zeroPrefix (j : Nat) (p : List Pixel) : List Pixel :=
  List.replicate j 0 ++ p.drop j

/-- With as many zeros as cells, every cell is 0. -/
theorem zeroPrefix_self (p : List Pixel) : zeroPrefix p.length p = List.replicate p.length 0 := by
  rw [zeroPrefix, List.drop_length, List.append_nil]

/-- Zeroing the next cell. -/
theorem zeroPrefix_set {j : Nat} {p : List Pixel} (h : j < p.length) :
    (zeroPrefix j p).set j 0 = zeroPrefix (j + 1) p := by
  rw [zeroPrefix, zeroPrefix, List.set_append_right _ _ (by rw [List.length_replicate]), List.length_replicate,
    Nat.sub_self, List.drop_eq_getElem_cons h, List.set_cons_zero, List.replicate_succ', List.append_assoc]
  rfl

/-- The state after `setLight(j, 0, 0, 0, 0)` for the first `j` lights, the host left with these moves. -/
def State.darkened (s : State) (p : List Pixel) (j : Nat) (moves : List HostMove) : State :=
  { s with host := moves, buf := some (zeroPrefix j p), responses := s.responses ++ List.replicate j .ok }

/-- One more light. -/
theorem step_darkened {s : State} {p : List Pixel} {w : CmdWord} {j : Nat} (moves : List HostMove)
    (hready : s.ready = true) (hinit : s.lifecycle = .initialized) (hlen : p.length = s.N) (hj : j < s.N)
    (hw : decode w = .setlight (j : Int) 0 0 0 0) :
    step (s.darkened p j (.command w :: moves)) = .next (s.darkened p (j + 1) moves) := by
  have hrange : firstFailing s.N j 0 0 0 0 = none := (firstFailing_eq_none ..).mpr (by omega)
  have hcell : (zeroPrefix j p).set (j : Int).toNat (packOperands 0 0 0 0) = zeroPrefix (j + 1) p :=
    zeroPrefix_set (hlen ▸ hj)
  rw [step_setlight (s := s.darkened p j (.command w :: moves)) hready hinit rfl hrange hw rfl, State.writeCell_eq, hcell]
  simp [State.darkened, State.withBuf, State.withHost, State.respond, List.replicate_succ']

/-- The lights from `j` on, one step each. -/
theorem run_darkened {s : State} {p : List Pixel} {zero : Nat → CmdWord} (moves : List HostMove)
    (hready : s.ready = true) (hinit : s.lifecycle = .initialized) (hlen : p.length = s.N)
    (hzero : ∀ j, j < s.N → decode (zero j) = .setlight (j : Int) 0 0 0 0) {j k : Nat} (hjk : j + k ≤ s.N) :
    run k (s.darkened p j ((List.range' j k).map (fun i => .command (zero i)) ++ moves))
      = .next (s.darkened p (j + k) moves) := by
  induction k generalizing j with
  | zero => rfl
  | succ k ih =>
    have hj : j < s.N := by omega
    rw [run, List.range'_succ, List.map_cons, List.cons_append, step_darkened _ hready hinit hlen hj (hzero j hj)]
    have hrest := ih (j := j + 1) (by omega)
    rwa [Nat.add_right_comm] at hrest

/-- The run of all the SETLIGHTs: every cell is 0 and every light has its response. -/
theorem run_zeroes {s : State} {p : List Pixel} {zero : Nat → CmdWord} (moves : List HostMove) (hready : s.ready = true)
    (hinit : s.lifecycle = .initialized) (hbuf : s.buf = some p) (hlen : p.length = s.N)
    (hzero : ∀ j, j < s.N → decode (zero j) = .setlight (j : Int) 0 0 0 0) :
    run s.N (s.withHost ((List.range s.N).map (fun j => .command (zero j)) ++ moves)) = .next
      { s with
        host := moves
        buf := some (List.replicate s.N 0)
        responses := s.responses ++ List.replicate s.N .ok } := by
  have hstart : ∀ moves, s.withHost moves = s.darkened p 0 moves := fun moves => by
    simp [State.darkened, State.withHost, zeroPrefix, hbuf]
  have hdark : zeroPrefix s.N p = List.replicate s.N 0 := hlen ▸ zeroPrefix_self p
  rw [hstart, List.range_eq_range', run_darkened moves hready hinit hlen hzero (Nat.zero_add s.N).le, Nat.zero_add,
    State.darkened, hdark]

/-- Settles O60: both hosts leave `N` zero cells and send the frame of those. -/
theorem resetallEqualsSetlightsThenRender : Obligations.ResetallEqualsSetlightsThenRender := by
  intro s p zero reset render hpending hfault hinit hbuf hlen hdriver hzero hreset hrender
  have hready := (State.ready_iff s).mpr ⟨hpending, hfault⟩
  have hresetall := run_resetall (s := s.withHost [.command reset]) hready hinit hbuf hlen hdriver hreset rfl
  have hzeroes := run_zeroes [.command render] hready hinit hbuf hlen hzero
  have hframe := run_render_of_driver_ready
    (s := { s with
      host := [.command render]
      buf := some (List.replicate s.N 0)
      responses := s.responses ++ List.replicate s.N .ok })
    hready hinit rfl (List.length_replicate ..) hdriver hrender rfl
  exact ⟨_, _, hresetall, run_add_of_next hzeroes hframe, rfl, rfl, rfl, rfl⟩

end Sys2Proof.Machine
end

section
/-! PROOFS. The frame: its bit cells and its latch, the event of each number (R89), its size (R53), and what a receiver
samples of it (R92). -/

namespace Sys2Proof.Machine

/-! Lists of pieces of one length. -/

/-- In a list of pieces of `k` elements each, element `e` is element `e % k` of piece `e / k`. -/
theorem getElem?_flatMap_of_length {α β : Type} {f : α → List β} {k : Nat} (hk : 0 < k) (hf : ∀ x, (f x).length = k)
    (l : List α) (e : Nat) : (l.flatMap f)[e]? = l[e / k]?.bind fun x => (f x)[e % k]? := by
  induction l generalizing e with
  | nil => simp
  | cons x l ih =>
    rw [List.flatMap_cons]
    obtain hlt | hge := Nat.lt_or_ge e k
    · rw [List.getElem?_append_left (by rwa [hf]), Nat.div_eq_of_lt hlt, Nat.mod_eq_of_lt hlt]
      rfl
    · obtain ⟨d, rfl⟩ := Nat.exists_eq_add_of_le hge
      rw [List.getElem?_append_right (by rw [hf]; exact hge), hf, Nat.add_sub_cancel_left, ih, Nat.add_div_left d hk,
        Nat.add_mod_left]
      rfl

theorem length_flatMap_of_length {α β : Type} {f : α → List β} {k : Nat} (hf : ∀ x, (f x).length = k) (l : List α) :
    (l.flatMap f).length = l.length * k := by
  simp [List.length_flatMap, hf]

/-- Repeating is joining copies (R6). -/
theorem rep_eq_flatMap {α : Type} (n : Nat) (l : List α) : rep n l = (List.replicate n ()).flatMap fun _ => l := by
  rw [rep_eq_flatten_replicate, List.flatMap_def, List.map_replicate]

theorem rep_flatMap {α β : Type} (n : Nat) (l : List α) (f : α → List β) :
    (rep n l).flatMap f = rep n (l.flatMap f) := by
  rw [rep_eq_flatMap, rep_eq_flatMap, List.flatMap_assoc]

theorem rep_singleton {α : Type} (n : Nat) (x : α) : rep n [x] = List.replicate n x := by
  rw [rep_eq_flatten_replicate, List.flatten_replicate_singleton]

theorem bitCell_length (b : Bool) : (bitCell b).length = 3 := rfl

theorem byteBits_length (b : Byte) : (byteBits b).length = 8 := rfl

theorem wireBytes_length (v : Pixel) : (wireBytes v).length = 4 := rfl

/-! A frame is bit cells, then the latch. -/

/-- A frame is the cells of its bits, then the latch (R88, R89). -/
theorem renderTrace_eq_cells (n : Nat) (p : List Pixel) :
    renderTrace n p = (frameBits n p).flatMap bitCell ++ latchTrace := by
  have hbyte : ∀ b, (byteBits b).flatMap bitCell = writeByteTrace b := fun _ => rfl
  have hbytes : (frameBits n p).flatMap bitCell = (frameBytes n p).flatMap writeByteTrace := by
    rw [frameBits, List.flatMap_assoc]
    simp only [hbyte]
  rw [renderTrace, hbytes, frameBytes, List.flatMap_append, rep_flatMap, List.flatMap_singleton, List.flatMap_assoc]
  rfl

theorem frameBytes_length {n : Nat} {p : List Pixel} (h : p.length = n) : (frameBytes n p).length = 5 * n := by
  rw [frameBytes, List.length_append, rep_singleton, List.length_replicate,
    length_flatMap_of_length wireBytes_length, h]
  omega

theorem frameBits_length {n : Nat} {p : List Pixel} (h : p.length = n) : (frameBits n p).length = 40 * n := by
  rw [frameBits, length_flatMap_of_length byteBits_length, frameBytes_length h]
  omega

/-! The bits of a frame. -/

/-- Bit `j` in the order sent is bit `7 - j` of the byte (R83). -/
theorem getElem?_byteBits (b : Byte) {j : Nat} (hj : j < 8) : (byteBits b)[j]? = some (b.getLsbD (7 - j)) := by
  interval_cases j <;> rfl

/-- Bit `k` of a frame is in byte `k / 8` (R89). -/
theorem getElem?_frameBits (n : Nat) (p : List Pixel) (k : Nat) :
    (frameBits n p)[k]? = (frameBytes n p)[k / 8]?.map fun b => b.getLsbD (7 - k % 8) := by
  have hbit : ∀ b, (byteBits b)[k % 8]? = some (b.getLsbD (7 - k % 8)) :=
    fun b => getElem?_byteBits b (Nat.mod_lt k (by decide))
  rw [frameBits, getElem?_flatMap_of_length (by decide) byteBits_length, Option.map_eq_bind]
  simp only [hbit]
  rfl

/-- The bits of the preamble are 0 (R85). -/
theorem frameBits_preamble {n k : Nat} (p : List Pixel) (hk : k < 8 * n) : (frameBits n p)[k]? = some false := by
  have hbyte : (frameBytes n p)[k / 8]? = some 0#8 := by
    rw [frameBytes, rep_singleton, List.getElem?_append_left (by rw [List.length_replicate]; omega),
      List.getElem?_replicate_of_lt (by omega)]
  rw [getElem?_frameBits, hbyte, Option.map_some, BitVec.getLsbD_zero]

/-- The bits after the preamble are those of the wire bytes, LED by LED (R86, R89). -/
theorem frameBits_data {n k : Nat} {p : List Pixel} {v : Pixel} (hk : 8 * n ≤ k) (hv : p[(k - 8 * n) / 32]? = some v) :
    (frameBits n p)[k]? = (wireBytes v)[(k - 8 * n) % 32 / 8]?.map fun b => b.getLsbD (7 - k % 8) := by
  have hled : (k / 8 - n) / 4 = (k - 8 * n) / 32 := by omega
  have hwire : (k / 8 - n) % 4 = (k - 8 * n) % 32 / 8 := by omega
  have hbyte : (frameBytes n p)[k / 8]? = (wireBytes v)[(k - 8 * n) % 32 / 8]? := by
    rw [frameBytes, rep_singleton, List.getElem?_append_right (by rw [List.length_replicate]; omega),
      List.length_replicate, getElem?_flatMap_of_length (by decide) wireBytes_length, hled, hwire,
      hv, Option.bind_some]
  rw [getElem?_frameBits, hbyte]

/-! The events of a frame. -/

/-- The events of a bit cell (R83). -/
theorem getElem?_bitCell (b : Bool) {j : Nat} (hj : j < 3) :
    (bitCell b)[j]? = some (if j = 0 then ⟨.data, b⟩ else ⟨.clk, j == 1⟩) := by
  interval_cases j <;> rfl

/-- Event `e` of a frame, before the latch, is in the cell of bit `e / 3` (R89). -/
theorem getElem?_renderTrace_of_bit {n e : Nat} {p : List Pixel} {b : Bool} (hb : (frameBits n p)[e / 3]? = some b) :
    (renderTrace n p)[e]? = some (if e % 3 = 0 then ⟨.data, b⟩ else ⟨.clk, e % 3 == 1⟩) := by
  have hlt : e / 3 < (frameBits n p).length := (List.getElem?_eq_some_iff.mp hb).1
  have hlen : ((frameBits n p).flatMap bitCell).length = (frameBits n p).length * 3 :=
    length_flatMap_of_length bitCell_length _
  rw [renderTrace_eq_cells, List.getElem?_append_left (by omega),
    getElem?_flatMap_of_length (by decide) bitCell_length, hb, Option.bind_some,
    getElem?_bitCell b (Nat.mod_lt e (by decide))]

/-- The events from `120n` on are the latch's (R89). -/
theorem getElem?_renderTrace_latch {n : Nat} {p : List Pixel} (h : p.length = n) (j : Nat) :
    (renderTrace n p)[120 * n + j]? = latchTrace[j]? := by
  have hlen : ((frameBits n p).flatMap bitCell).length = 120 * n := by
    rw [length_flatMap_of_length bitCell_length, frameBits_length h]
    omega
  rw [renderTrace_eq_cells, List.getElem?_append_right (by omega), hlen, Nat.add_sub_cancel_left]

/-- The pulses of the latch (R87). -/
theorem getElem?_latchTrace_pulse {j : Nat} (hj : j < 72) : latchTrace[j + 1]? = some ⟨.clk, j % 2 == 0⟩ := by
  have hpulse : ∀ i < 2, clockPulseTrace[i]? = some ⟨.clk, i == 0⟩ := by decide
  rw [latchTrace, List.getElem?_cons_succ, Format.latchPulses, rep_eq_flatMap,
    getElem?_flatMap_of_length (k := 2) (by decide) (fun _ => rfl), List.getElem?_replicate_of_lt (by omega),
    Option.bind_some, hpulse _ (Nat.mod_lt j (by decide))]

/-- Every event of a frame by its number (R89). -/
theorem getElem?_renderTrace {n : Nat} {p : List Pixel} (h : p.length = n) (e : Nat) :
    (renderTrace n p)[e]? = frameEvent n p e := by
  rw [frameEvent]
  split_ifs with hcell hdata hlow hpulse
  · have hbit : e / 3 < (frameBits n p).length := by rw [frameBits_length h]; omega
    rw [getElem?_renderTrace_of_bit (List.getElem?_eq_getElem hbit), if_pos hdata, List.getElem?_eq_getElem hbit]
    rfl
  · have hbit : e / 3 < (frameBits n p).length := by rw [frameBits_length h]; omega
    rw [getElem?_renderTrace_of_bit (List.getElem?_eq_getElem hbit), if_neg hdata]
  · rw [hlow]
    exact getElem?_renderTrace_latch h 0
  · obtain ⟨j, rfl⟩ : ∃ j, e = 120 * n + (j + 1) := ⟨e - (120 * n + 1), by omega⟩
    rw [getElem?_renderTrace_latch h, getElem?_latchTrace_pulse (by omega)]
    congr 4
    omega
  · exact List.getElem?_eq_none (by rw [renderTrace_length_of_length_eq h]; omega)

/-- Settles O35: the events by their numbers, and the bits on each side of the end of the preamble. -/
theorem frameEventsByNumber : Obligations.FrameEventsByNumber := by
  intro n p h
  exact ⟨getElem?_renderTrace h, fun k => frameBits_preamble p, fun k v => frameBits_data⟩

/-! The size of a frame. -/

theorem eventsOn_append (l : Line) (es fs : List LineEvent) : eventsOn l (es ++ fs) = eventsOn l es + eventsOn l fs :=
  List.countP_append

/-- Cells that each have `k` events on a line have `k` times as many as there are cells. -/
theorem eventsOn_cells {l : Line} {k : Nat} (h : ∀ b, eventsOn l (bitCell b) = k) (bits : List Bool) :
    eventsOn l (bits.flatMap bitCell) = bits.length * k := by
  induction bits with
  | nil => rw [List.length_nil, Nat.zero_mul]; rfl
  | cons b bits ih => rw [List.flatMap_cons, eventsOn_append, h, ih, List.length_cons, Nat.succ_mul, Nat.add_comm]

/-- Settles O36: a cell has two CLK events, one DATA event and no PWR event, and the latch 72, 1 and none. -/
theorem frameSizeDependsOnTheLightCountOnly : Obligations.FrameSizeDependsOnTheLightCountOnly := by
  intro n p h
  have hlatch : eventsOn .clk latchTrace = 72 ∧ eventsOn .data latchTrace = 1 ∧ eventsOn .pwr latchTrace = 0 := by decide
  obtain ⟨hclk, hdata, hpwr⟩ := hlatch
  refine ⟨renderTrace_length_of_length_eq h, ?_, ?_, ?_, frameBytes_length h⟩
  · rw [renderTrace_eq_cells, eventsOn_append, eventsOn_cells (k := 2) (fun _ => rfl), frameBits_length h, hclk]
    omega
  · rw [renderTrace_eq_cells, eventsOn_append, eventsOn_cells (k := 1) (by decide), frameBits_length h, hdata]
    omega
  · rw [renderTrace_eq_cells, eventsOn_append, eventsOn_cells (k := 0) (by decide), hpwr]
    rfl

/-! What a receiver samples. -/

/-- A cell puts its bit in force at its one rising edge (R92). -/
theorem sampledStream_bitCell (d : Option Bool) (b : Bool) (es : List LineEvent) :
    sampledStream d (bitCell b ++ es) = some b :: sampledStream (some b) es := rfl

/-- Cells before a write of DATA are sampled as their bits, whatever DATA was (R92). -/
theorem sampledStream_cells (d : Option Bool) (bits : List Bool) (v : Bool) (es : List LineEvent) :
    sampledStream d (bits.flatMap bitCell ++ ⟨.data, v⟩ :: es) = bits.map some ++ sampledStream (some v) es := by
  induction bits generalizing d with
  | nil => rfl
  | cons b bits ih =>
    rw [List.flatMap_cons, List.append_assoc, sampledStream_bitCell, ih]
    rfl

/-- Clock pulses sample the level DATA has (R92). -/
theorem sampledStream_pulses (d : Option Bool) (n : Nat) :
    sampledStream d (rep n clockPulseTrace) = List.replicate n d := by
  induction n with
  | zero => rfl
  | succ n ih =>
    rw [List.replicate_succ, ← ih]
    rfl

/-- After cells CLK is low again, and each of them had its rising edge (R82, R83). -/
theorem allRisingEdges_cells (bits : List Bool) (es : List LineEvent) :
    allRisingEdges (some false) (bits.flatMap bitCell ++ es) = allRisingEdges (some false) es := by
  induction bits with
  | nil => rfl
  | cons b bits ih =>
    rw [← ih, List.flatMap_cons, List.append_assoc]
    rfl

/-- Settles O37: the cells are sampled as the bits of the frame; the latch first drives DATA low, and its pulses sample
that. -/
theorem sampledStreamIsTheFrameBitsThenZeros : Obligations.SampledStreamIsTheFrameBitsThenZeros := by
  intro n p d
  rw [renderTrace_eq_cells, allRisingEdges_cells, latchTrace, sampledStream_cells, sampledStream_pulses, List.map_append,
    List.map_replicate, Format.latchPulses]
  exact ⟨rfl, by decide⟩

end Sys2Proof.Machine
end

section
/-! PROOFS. The sequence position inside a frame (R94): the event at each position is the frame's event of the position's
number, and the position advances one event at a time. -/

namespace Sys2Proof.Machine

theorem Sub.offset_lt (sub : Sub) : sub.offset < 3 := by
  cases sub <;> decide

/-! The positions of a frame of `n` lights (R94). -/

@[simp] theorem Position.valid_preamble {n led bit : Nat} {sub : Sub} :
    (Position.preamble led bit sub).valid n = true ↔ led < n ∧ bit ≤ 7 := by
  simp [Position.valid]

@[simp] theorem Position.valid_data {n led byte bit : Nat} {sub : Sub} :
    (Position.data led byte bit sub).valid n = true ↔ led < n ∧ byte ≤ 3 ∧ bit ≤ 7 := by
  simp [Position.valid, and_assoc]

@[simp] theorem Position.valid_latch_setData {n pulse : Nat} :
    (Position.latch pulse .setData).valid n = true ↔ pulse = 0 := by
  simp [Position.valid]

@[simp] theorem Position.valid_latch_clkHigh {n pulse : Nat} :
    (Position.latch pulse .clkHigh).valid n = true ↔ pulse < 36 :=
  decide_eq_true_iff

@[simp] theorem Position.valid_latch_clkLow {n pulse : Nat} :
    (Position.latch pulse .clkLow).valid n = true ↔ pulse < 36 :=
  decide_eq_true_iff

/-! The event at a position. -/

/-- A position in the cell of bit `k` of a frame has the event of that cell that its `sub` names. -/
theorem event_of_cell {n k : Nat} {p : List Pixel} {x : Position} (hnumber : x.number n = 3 * k + x.sub.offset)
    (hbit : (frameBits n p)[k]? = some (x.dataBit p)) : (renderTrace n p)[x.number n]? = some (x.event p) := by
  have hlt := x.sub.offset_lt
  have hdiv : (3 * k + x.sub.offset) / 3 = k := by omega
  have hmod : (3 * k + x.sub.offset) % 3 = x.sub.offset := by omega
  rw [← hdiv] at hbit
  rw [hnumber, getElem?_renderTrace_of_bit hbit, hmod, Position.event]
  cases x.sub <;> rfl

/-- The wire byte a data position names is one of the four of its LED's pixel. -/
theorem getElem?_wireBytes (v : Pixel) {byte : Nat} (h : byte ≤ 3) :
    (wireBytes v)[byte]? = some ((wireBytes v).getD byte 0) := by
  interval_cases byte <;> rfl

/-- The bit at a position of the data phase (R86, R94). -/
theorem frameBits_dataPosition {n led byte bit : Nat} {p : List Pixel} (sub : Sub) (hled : led < p.length)
    (hbyte : byte ≤ 3) (hbit : bit ≤ 7) :
    (frameBits n p)[8 * n + 32 * led + 8 * byte + (7 - bit)]? = some ((Position.data led byte bit sub).dataBit p) := by
  have hv : p[led]? = some (p.getD led 0) := by
    rw [List.getD_eq_getElem?_getD, List.getElem?_eq_getElem hled]
    rfl
  have hledOf : (8 * n + 32 * led + 8 * byte + (7 - bit) - 8 * n) / 32 = led := by omega
  have hbyteOf : (8 * n + 32 * led + 8 * byte + (7 - bit) - 8 * n) % 32 / 8 = byte := by omega
  have hbitOf : 7 - (8 * n + 32 * led + 8 * byte + (7 - bit)) % 8 = bit := by omega
  rw [frameBits_data (by omega) (hledOf.symm ▸ hv : p[_ / 32]? = some (p.getD led 0)), hbyteOf, hbitOf,
    getElem?_wireBytes _ hbyte]
  rfl

/-- At every position of a frame, the frame's event of the position's number is the position's event (R89, R94). -/
theorem getElem?_renderTrace_number {n : Nat} {p : List Pixel} (h : p.length = n) {x : Position}
    (hx : x.valid n = true) : (renderTrace n p)[x.number n]? = some (x.event p) := by
  match x with
  | .preamble led bit sub =>
    obtain ⟨hled, hbit⟩ := Position.valid_preamble.mp hx
    refine event_of_cell (k := 8 * led + (7 - bit)) ?_ (frameBits_preamble p (by omega))
    simp only [Position.number, Position.sub]
    omega
  | .data led byte bit sub =>
    obtain ⟨hled, hbyte, hbit⟩ := Position.valid_data.mp hx
    refine event_of_cell ?_ (frameBits_dataPosition sub (h ▸ hled) hbyte hbit)
    simp only [Position.number, Position.sub]
    omega
  | .latch pulse .setData =>
    obtain rfl := Position.valid_latch_setData.mp hx
    exact getElem?_renderTrace_latch h 0
  | .latch pulse .clkHigh =>
    have hpulse := Position.valid_latch_clkHigh.mp hx
    rw [Position.number, Sub.offset, Nat.add_assoc, getElem?_renderTrace_latch h, getElem?_latchTrace_pulse (by omega),
      Nat.mul_mod_right]
    rfl
  | .latch pulse .clkLow =>
    have hpulse := Position.valid_latch_clkLow.mp hx
    rw [Position.number, Sub.offset, Nat.add_assoc, getElem?_renderTrace_latch h,
      getElem?_latchTrace_pulse (j := 2 * pulse + 1) (by omega), Nat.mul_add_mod]
    rfl

/-! The next position. -/

/-- The next position is a position of the frame, one event later (R94). Every branch of `next` is arithmetic: a digit of
the position goes on, or returns to its first value as the next higher digit goes on. -/
theorem Position.next_valid_number {n : Nat} (hn : 1 ≤ n) {x y : Position} (hx : x.valid n = true)
    (h : x.next n = some y) : y.valid n = true ∧ y.number n = x.number n + 1 := by
  revert hx h
  fun_cases Position.next n x <;> intro hx h <;> cases h
  all_goals
    simp only [Position.valid_preamble, Position.valid_data, Position.valid_latch_setData, Position.valid_latch_clkHigh,
      Position.valid_latch_clkLow, Position.number, Sub.offset, Format.latchPulses, and_true, true_and] at *
    omega

/-- The frame ends at its last event (R94). -/
theorem Position.number_of_next_none {n : Nat} {x : Position} (hx : x.valid n = true) (h : x.next n = none) :
    x.number n + 1 = 120 * n + 73 := by
  revert hx h
  fun_cases Position.next n x <;> intro hx h <;> cases h
  next pulse hlast =>
    have hpulse := Position.valid_latch_clkLow.mp hx
    rw [Format.latchPulses] at hlast
    simp only [Position.number, Sub.offset]
    omega

/-- Settles O38: the event of each position, and the two ways the position goes on. -/
theorem sequencePositionFollowsTheFrame : Obligations.SequencePositionFollowsTheFrame := by
  intro n p hn h
  refine ⟨?_, rfl, fun x hx => ⟨getElem?_renderTrace_number h hx, fun y => Position.next_valid_number hn hx,
    Position.number_of_next_none hx⟩⟩
  exact Position.valid_preamble.mpr ⟨hn, le_rfl⟩

end Sys2Proof.Machine
end
